-- ==== Sys2Proof/Word.lean ====
section
/-! DEFINITION. The words of the unit: 32-bit registers (10_state.md R20) and bytes of bus memory
(20_memory.md R61). -/

namespace Sys2Proof

/-- A register, an operand, a command word or a bus address: 32 bits (00_scope.md R7). -/
abbrev Word := BitVec 32

/-- A byte of bus memory, a sample of a plane (20_memory.md R61, R62). -/
abbrev Byte := BitVec 8

end Sys2Proof
end

