-- ==== Sys2Proof/Syntax.lean ====
section
/-! DEFINITION. The commands of the unit: one constructor of `Instr` per row of the opcode map
(30_encoding.md R88), with the fields of its format (R80 to R87), and the small name sets the rules use
(00_scope.md R13, 10_state.md R20). -/

namespace Sys2Proof

/-- The profile in force: CONFIG.PROFILE 0 is F, 1 is G (00_scope.md R2, R13). -/
inductive Profile where
  | f
  | g
  deriving DecidableEq, Repr, Inhabited

/-- The plane class of the tables: CHROMA 0 is luma, 1 is chroma (30_encoding.md R84). -/
inductive PlaneClass where
  | luma
  | chroma
  deriving DecidableEq, Repr, Inhabited

/-- The coding class: INTER 0 is intra, 1 is inter (30_encoding.md R84, R85). -/
inductive CodingClass where
  | intra
  | inter
  deriving DecidableEq, Repr, Inhabited

/-- A plane of a bank: 0 Y, 1 U, 2 V, 3 A (10_state.md R20, 30_encoding.md R86). -/
inductive Plane where
  | y
  | u
  | v
  | a
  deriving DecidableEq, Repr, Inhabited

/-- A command, one constructor per row of the opcode map (30_encoding.md R88). -/
inductive Instr where
  /-- NOP (44_system.md R240). -/
  | nop
  /-- BR_READ n, format N (40_bitreader_vlc.md R103). -/
  | brRead (n : BitVec 6)
  /-- BR_SKIP (R104). -/
  | brSkip
  /-- BR_ALIGN (R105). -/
  | brAlign
  /-- BR_SIGN (R106). -/
  | brSign
  /-- BR_REALIGN (R107). -/
  | brRealign
  /-- VLC_DEC t, format T (R110). -/
  | vlcDec (tid : BitVec 4)
  /-- QSET (41_coef_dequant.md R143). -/
  | qset
  /-- AC_DECODE, format Q: plane class and coding class (R147). -/
  | acDecode (c : PlaneClass) (k : CodingClass)
  /-- COEF_CLEAR (R148). -/
  | coefClear
  /-- DC_DEQUANT (R149). -/
  | dcDequant
  /-- DC_INSERT (R150). -/
  | dcInsert
  /-- DC_SEED, format M (R152). -/
  | dcSeed (k : CodingClass)
  /-- DC_CLAMP, format M (R153). -/
  | dcClamp (k : CodingClass)
  /-- DC_MPRED, format M (R154). -/
  | dcMpred (k : CodingClass)
  /-- DC_MPRED2, format M (R155). -/
  | dcMpred2 (k : CodingClass)
  /-- MID_PRED (R156). -/
  | midPred
  /-- IDCT.PUT, format B with ADD = 0 (42_idct.md R191). -/
  | idctPut (p : Plane) (repos : Bool) (blk : BitVec 4)
  /-- IDCT.ADD, format B with ADD = 1 (R192). -/
  | idctAdd (p : Plane) (repos : Bool) (blk : BitVec 4)
  /-- MC_L, format B with bits 15:10 zero (43_motion_comp.md R217). -/
  | mcL (p : Plane)
  /-- MC_C, format B with bits 15:10 zero (R218). -/
  | mcC (p : Plane)
  /-- SWAP_REF (44_system.md R241). -/
  | swapRef
  deriving DecidableEq, Repr, Inhabited

end Sys2Proof
end

