-- ==== Sys2Proof/WellFormed.lean ====
section
/-! DEFINITION. Which commands are well-formed: every field value but a BR_READ count above 32
(30_encoding.md R82, R89(c), R90). -/

namespace Sys2Proof

/-- A bit count BR_READ may have: 0 to 32 (30_encoding.md R82, R89(c)). -/
def bitCountOk (n : BitVec 6) : Bool := n.toNat ≤ 32

/-- The well-formed commands. TID, PLANE, BLK and the one-bit selectors have no illegal value (30_encoding.md R90). -/
def Instr.wf : Instr → Bool
  | .brRead n => bitCountOk n
  | .nop => true
  | .brSkip => true
  | .brAlign => true
  | .brSign => true
  | .brRealign => true
  | .vlcDec _ => true
  | .qset => true
  | .acDecode _ _ => true
  | .coefClear => true
  | .dcDequant => true
  | .dcInsert => true
  | .dcSeed _ => true
  | .dcClamp _ => true
  | .dcMpred _ => true
  | .dcMpred2 _ => true
  | .midPred => true
  | .idctPut _ _ _ => true
  | .idctAdd _ _ _ => true
  | .mcL _ => true
  | .mcC _ => true
  | .swapRef => true

end Sys2Proof
end

