-- ==== Sys2Proof/Decode.lean ====
section
/-! DEFINITION. Decoding of a command word and its encoder (30_encoding.md R80 to R90), the byte order of the
register window that carries it (20_memory.md R64), and the host's fixed name `decodeTableWord`. -/

namespace Sys2Proof

/-- Why a word is no command (30_encoding.md R89). Every one of them is an illegal word, which the machine runs as
`E_ILLEGAL`. -/
inductive DecodeError where
  /-- R89(a): OP is not in the opcode map. Raised by the decoder; the machine raises E_ILLEGAL. Safe. -/
  | unassignedOpcode (op : Byte)
  /-- R89(b): a bit outside the row's fields is 1. Raised by the decoder; the machine raises E_ILLEGAL. Safe. -/
  | reservedBits (op : Byte)
  /-- R89(c): BR_READ with N above 32. Raised by the decoder; the machine raises E_ILLEGAL. Safe. -/
  | bitCount (n : BitVec 6)
  /-- Fewer than the four bytes of a command word (R80: one length only). No word of the machine is short. Safe. -/
  | truncated
  deriving DecidableEq, Repr

/-! ## Fields -/

/-- The opcode field OP, bits 7:0 (30_encoding.md R80). -/
def opField (w : Word) : Byte := w.extractLsb' 0 8

/-- The bit count N, bits 13:8 of format N (R82). -/
def nField (w : Word) : BitVec 6 := w.extractLsb' 8 6

/-- The table identifier TID, bits 11:8 of format T (R83). -/
def tidField (w : Word) : BitVec 4 := w.extractLsb' 8 4

/-- The plane class CHROMA, bit 8 of format Q (R84). -/
def chromaField (w : Word) : PlaneClass := if w.getLsbD 8 then .chroma else .luma

/-- The coding class INTER at bit `at` (bit 9 of format Q, R84; bit 8 of format M, R85). -/
def interField (w : Word) (pos : Nat) : CodingClass := if w.getLsbD pos then .inter else .intra

/-- The plane with number n: 0 Y, 1 U, 2 V, 3 A (10_state.md R20). -/
def planeOfBits (n : BitVec 2) : Plane :=
  if n = 0 then .y else if n = 1 then .u else if n = 2 then .v else .a

/-- The number of a plane (10_state.md R20). -/
def planeBits : Plane → BitVec 2
  | .y => 0
  | .u => 1
  | .v => 2
  | .a => 3

/-- PLANE, bits 9:8 of format B (R86). -/
def planeField (w : Word) : Plane := planeOfBits (w.extractLsb' 8 2)

/-- REPOS, bit 11 of format B (R86). -/
def reposField (w : Word) : Bool := w.getLsbD 11

/-- BLK, bits 15:12 of format B (R86). -/
def blkField (w : Word) : BitVec 4 := w.extractLsb' 12 4

/-! ## The opcode map -/

/-- One row of the opcode map: a word w encodes the row when `(w & mask) == match` (30_encoding.md R88). -/
structure OpcodeRow where
  mnemonic : String
  matchBits : Word
  mask : Word
  build : Word → Instr

/-- The opcode map, in the order of 30_encoding.md R88. -/
def opcodeRows : List OpcodeRow := [
  ⟨"NOP",        0x00000000, 0xFFFFFFFF, fun _ => .nop⟩,
  ⟨"BR_READ",    0x00000001, 0xFFFFC0FF, fun w => .brRead (nField w)⟩,
  ⟨"BR_SKIP",    0x00000002, 0xFFFFFFFF, fun _ => .brSkip⟩,
  ⟨"BR_ALIGN",   0x00000003, 0xFFFFFFFF, fun _ => .brAlign⟩,
  ⟨"BR_SIGN",    0x00000004, 0xFFFFFFFF, fun _ => .brSign⟩,
  ⟨"BR_REALIGN", 0x00000005, 0xFFFFFFFF, fun _ => .brRealign⟩,
  ⟨"VLC_DEC",    0x00000008, 0xFFFFF0FF, fun w => .vlcDec (tidField w)⟩,
  ⟨"QSET",       0x00000010, 0xFFFFFFFF, fun _ => .qset⟩,
  ⟨"AC_DECODE",  0x00000011, 0xFFFFFCFF, fun w => .acDecode (chromaField w) (interField w 9)⟩,
  ⟨"COEF_CLEAR", 0x00000012, 0xFFFFFFFF, fun _ => .coefClear⟩,
  ⟨"DC_DEQUANT", 0x00000013, 0xFFFFFFFF, fun _ => .dcDequant⟩] ++ [
  ⟨"DC_INSERT",  0x00000014, 0xFFFFFFFF, fun _ => .dcInsert⟩,
  ⟨"DC_SEED",    0x00000018, 0xFFFFFEFF, fun w => .dcSeed (interField w 8)⟩,
  ⟨"DC_CLAMP",   0x00000019, 0xFFFFFEFF, fun w => .dcClamp (interField w 8)⟩,
  ⟨"DC_MPRED",   0x0000001A, 0xFFFFFEFF, fun w => .dcMpred (interField w 8)⟩,
  ⟨"DC_MPRED2",  0x0000001B, 0xFFFFFEFF, fun w => .dcMpred2 (interField w 8)⟩,
  ⟨"MID_PRED",   0x0000001C, 0xFFFFFFFF, fun _ => .midPred⟩,
  ⟨"IDCT.PUT",   0x00000020, 0xFFFF04FF, fun w => .idctPut (planeField w) (reposField w) (blkField w)⟩,
  ⟨"IDCT.ADD",   0x00000420, 0xFFFF04FF, fun w => .idctAdd (planeField w) (reposField w) (blkField w)⟩,
  ⟨"MC_L",       0x00000028, 0xFFFFFCFF, fun w => .mcL (planeField w)⟩,
  ⟨"MC_C",       0x00000029, 0xFFFFFCFF, fun w => .mcC (planeField w)⟩,
  ⟨"SWAP_REF",   0x00000030, 0xFFFFFFFF, fun _ => .swapRef⟩]

/-- The word encodes the row (30_encoding.md R88). -/
def rowMatches (w : Word) (r : OpcodeRow) : Bool := w &&& r.mask == r.matchBits

/-- The opcodes of the map (30_encoding.md R88, R89(a)). -/
def assignedOpcode (op : Byte) : Bool := opcodeRows.any fun r => opField r.matchBits == op

/-- The decoder: the command a word encodes, or which clause of 30_encoding.md R89 makes it illegal. -/
def decodeWord (w : Word) : Except DecodeError Instr :=
  match opcodeRows.find? (rowMatches w) with
  | some r =>
    if (r.build w).wf then .ok (r.build w) else .error (.bitCount (nField w))
  | none =>
    if assignedOpcode (opField w) then .error (.reservedBits (opField w))
    else .error (.unassignedOpcode (opField w))

/-! ## Bytes -/

/-- A 32-bit word from its four bytes, lowest address first: the register window is little-endian (20_memory.md R64(a)). -/
def wordOfBytes (b0 b1 b2 b3 : Byte) : Word := b3 ++ b2 ++ b1 ++ b0

/-- The four bytes of a word, lowest address first (20_memory.md R64(a)). -/
def bytesOfWord (w : Word) : List Byte :=
  [w.extractLsb' 0 8, w.extractLsb' 8 8, w.extractLsb' 16 8, w.extractLsb' 24 8]

/-- The decoder on the bytes of the command register's window: the command and the bytes after it. Every command is
four bytes (30_encoding.md R80). -/
def decodeBytes : List Byte → Except DecodeError (Instr × List Byte)
  | b0 :: b1 :: b2 :: b3 :: rest =>
    match decodeWord (wordOfBytes b0 b1 b2 b3) with
    | .ok i => .ok (i, rest)
    | .error e => .error e
  | _ => .error .truncated

/-! ## The encoder -/

/-- A one-bit selector as a bit of the word. -/
def flagBit (b : Bool) (pos : Nat) : Word := if b then 1#32 <<< pos else 0#32

/-- CHROMA at bit 8 (30_encoding.md R84). -/
def chromaBit : PlaneClass → Word
  | .luma => 0
  | .chroma => flagBit true 8

/-- INTER at the bit the format gives it (30_encoding.md R84, R85). -/
def interBit (k : CodingClass) (pos : Nat) : Word :=
  match k with
  | .intra => 0
  | .inter => flagBit true pos

/-- PLANE at bits 9:8 (30_encoding.md R86). -/
def planeWord (p : Plane) : Word := (planeBits p).setWidth 32 <<< 8

/-- REPOS and BLK at bits 15:11 (30_encoding.md R86). -/
def blockWord (repos : Bool) (blk : BitVec 4) : Word := flagBit repos 11 ||| blk.setWidth 32 <<< 12

/-- The encoder: the command word of a command (30_encoding.md R80 to R88, R91). -/
def encode : Instr → Word
  | .nop => 0x00
  | .brRead n => 0x01 ||| n.setWidth 32 <<< 8
  | .brSkip => 0x02
  | .brAlign => 0x03
  | .brSign => 0x04
  | .brRealign => 0x05
  | .vlcDec t => 0x08 ||| t.setWidth 32 <<< 8
  | .qset => 0x10
  | .acDecode c k => 0x11 ||| chromaBit c ||| interBit k 9
  | .coefClear => 0x12
  | .dcDequant => 0x13
  | .dcInsert => 0x14
  | .dcSeed k => 0x18 ||| interBit k 8
  | .dcClamp k => 0x19 ||| interBit k 8
  | .dcMpred k => 0x1A ||| interBit k 8
  | .dcMpred2 k => 0x1B ||| interBit k 8
  | .midPred => 0x1C
  | .idctPut p r b => 0x20 ||| planeWord p ||| blockWord r b
  | .idctAdd p r b => 0x420 ||| planeWord p ||| blockWord r b
  | .mcL p => 0x28 ||| planeWord p
  | .mcC p => 0x29 ||| planeWord p
  | .swapRef => 0x30

/-- The bytes of a command as the host stores them into CMD. -/
def encodeBytes (i : Instr) : List Byte := bytesOfWord (encode i)

/-! ## The host's fixed name -/

/-- The word whose low `nbits` bits are those of `w` and whose other bits are 0. -/
def tableWord (nbits w : Nat) : Word := BitVec.ofNat 32 (w % 2 ^ nbits)

/-- The command the decoder reads from a table word: its four bytes in the window's byte order, given to the decoder. -/
def decodeTableWord (nbits w : Nat) : Option Instr :=
  match decodeBytes (bytesOfWord (tableWord nbits w)) with
  | .ok (i, _) => some i
  | .error _ => none

end Sys2Proof
end

