-- ==== Sys2Proof/Machine/Arith.lean ====
section
/-! DEFINITION. Integers as 00_scope.md R9 and R10 give them: unbounded arithmetic, the floor shift, the readings of a
register, wrapping, clipping, clamping and medians. -/

namespace Sys2Proof.Machine

/-- The signed value of a register: sext_32 (R9). -/
def signed (w : Word) : Int := w.toInt

/-- The unsigned value of a register: zext_32 (R9). -/
def unsigned (w : Word) : Nat := w.toNat

/-- wrap_32(a): the 32-bit pattern of a mod 2^32 (R9). -/
def wrap32 (a : Int) : Word := BitVec.ofInt 32 a

/-- `a >> n`: the floor of a / 2^n (R9). -/
def asr (a : Int) (n : Nat) : Int := a / 2 ^ n

/-- `a & (2^n - 1)`: a mod 2^n, also for negative a (R9). -/
def lowBits (a : Int) (n : Nat) : Int := a % 2 ^ n

/-- clamp(v, lo, hi) (R10). -/
def clamp (v lo hi : Int) : Int := min (max v lo) hi

/-- clip_uint8(v), as the byte of the clipped value (R10). -/
def clipUint8 (v : Int) : Byte := if v < 0 then 0 else if v > 255 then 255 else BitVec.ofInt 8 v

/-- min3(a, b, c) (R10). -/
def min3 (a b c : Int) : Int := min a (min b c)

/-- max3(a, b, c) (R10). -/
def max3 (a b c : Int) : Int := max a (max b c)

/-- median3(a, b, c): the middle value after sorting (R10). -/
def median3 (a b c : Int) : Int := max (min a b) (min (max a b) c)

/-- The value fits in 16 bits as a signed integer (42_idct.md R183). -/
def fits16 (v : Int) : Bool := decide (-32768 ≤ v) && decide (v ≤ 32767)

/-- The value fits in 32 bits as a signed integer (41_coef_dequant.md R146). -/
def fits32 (v : Int) : Bool := decide (-2147483648 ≤ v) && decide (v ≤ 2147483647)

end Sys2Proof.Machine
end

