-- ==== Sys2Proof/Machine/Binary32.lean ====
section
/-! DEFINITION. IEEE 754 binary32 arithmetic (00_scope.md R11): every operation is the exact result rounded once to the
nearest binary32 value, ties to even. Every finite binary32 value is an integer multiple of 2^-149, so a finite value is
a sign and that multiple, sums are exact integer sums, and products are exact multiples of 2^-298. Log 8 (DEDUCED):
overflow to infinity, subnormals, signed zeros and the special values are those of IEEE 754. Log 7: the bits of a NaN
(`mulBits` of Machine/Ops.lean). -/

namespace Sys2Proof.Machine

/-- A binary32 value. `fin neg mag` is (-1)^neg * mag * 2^-149. -/
inductive F32 where
  | nan
  | inf (neg : Bool)
  | fin (neg : Bool) (mag : Nat)
  deriving DecidableEq, Repr, Inhabited

/-- The magnitude, in units of 2^-149, from which a value rounds to infinity: 2^128. -/
def f32Limit : Nat := 2 ^ 277

/-- n / 2^drop rounded to the nearest integer, ties to even. -/
def roundShift (n drop : Nat) : Nat :=
  let q := n >>> drop
  let twice := 2 * (n % 2 ^ drop)
  if twice > 2 ^ drop ∨ (twice = 2 ^ drop ∧ q % 2 = 1) then q + 1 else q

/-- The binary32 magnitude nearest to n * 2^-(149 + k), in units of 2^-149: 24 significant bits, no unit below 2^-149. -/
def roundMag (n k : Nat) : Nat :=
  let drop := max k (Nat.log2 n - 23)
  roundShift n drop <<< (drop - k)

/-- f32 of the real (-1)^neg * n * 2^-(149 + k) (R11). -/
def roundF32 (neg : Bool) (n k : Nat) : F32 :=
  let m := roundMag n k
  if m < f32Limit then .fin neg m else .inf neg

/-- The signed multiple of 2^-149 of a finite value. -/
def signedMag (neg : Bool) (m : Nat) : Int := if neg then -(m : Int) else m

/-- i2f(n) = f32(n) (R11). -/
def f32OfInt (n : Int) : F32 := roundF32 (decide (n < 0)) (n.natAbs <<< 149) 0

/-- `a +f b` (R11). An exact zero sum is +0 unless both operands are negative (log 8). -/
def f32Add : F32 → F32 → F32
  | .nan, _ => .nan
  | .inf _, .nan => .nan
  | .inf s, .inf t => if s = t then .inf s else .nan
  | .inf s, .fin _ _ => .inf s
  | .fin _ _, .nan => .nan
  | .fin _ _, .inf t => .inf t
  | .fin s m, .fin t n =>
    let z := signedMag s m + signedMag t n
    if z = 0 then .fin (s && t) 0 else roundF32 (decide (z < 0)) z.natAbs 0

/-- The value with its sign changed. -/
def f32Neg : F32 → F32
  | .nan => .nan
  | .inf s => .inf (!s)
  | .fin s m => .fin (!s) m

/-- `a -f b` (R11). -/
def f32Sub (a b : F32) : F32 := f32Add a (f32Neg b)

/-- `a *f b` (R11). -/
def f32Mul : F32 → F32 → F32
  | .nan, _ => .nan
  | .inf _, .nan => .nan
  | .inf s, .inf t => .inf (s != t)
  | .inf s, .fin t n => if n = 0 then .nan else .inf (s != t)
  | .fin _ _, .nan => .nan
  | .fin s m, .inf t => if m = 0 then .nan else .inf (s != t)
  | .fin s m, .fin t n => roundF32 (s != t) (m * n) 149

/-- Neither a NaN nor an infinity (42_idct.md R187). -/
def f32Finite : F32 → Bool
  | .nan => false
  | .inf _ => false
  | .fin _ _ => true

/-- floor(x) of a finite value (R11); of a NaN or an infinity, which no rule converts, 0. -/
def f32Floor : F32 → Int
  | .fin s m => signedMag s m / 2 ^ 149
  | .nan => 0
  | .inf _ => 0

/-- The value truncated toward zero: the alternative of F_ADD_CVT (42_idct.md R187). -/
def f32Trunc : F32 → Int
  | .fin s m => (signedMag s m).tdiv (2 ^ 149)
  | .nan => 0
  | .inf _ => 0

/-- The value a binary32 pattern stands for: sign bit 31, exponent 30:23, fraction 22:0 (R11). -/
def f32OfBits (w : Word) : F32 :=
  let s := w.getLsbD 31
  let e := (w.extractLsb' 23 8).toNat
  let f := (w.extractLsb' 0 23).toNat
  if e = 255 then (if f = 0 then .inf s else .nan)
  else if e = 0 then .fin s f
  else .fin s ((2 ^ 23 + f) <<< (e - 1))

/-- The exponent and fraction bits of a finite magnitude. -/
def f32MagBits (m : Nat) : Nat :=
  if m < 2 ^ 23 then m
  else
    let e := Nat.log2 m - 22
    e * 2 ^ 23 + (m >>> (e - 1) - 2 ^ 23)

/-- Some NaN pattern: the sign and fraction of `free`, a zero fraction replaced by the quiet bit. -/
def nanPattern (free : Word) : Word :=
  let w := free &&& 0x807FFFFF
  if w &&& 0x007FFFFF = 0 then w ||| 0x7FC00000 else w ||| 0x7F800000

/-- The pattern of a value; for a NaN the pattern with the bits of `free`. -/
def f32ToBits (free : Word) : F32 → Word
  | .nan => nanPattern free
  | .inf s => if s then 0xFF800000 else 0x7F800000
  | .fin s m => BitVec.ofNat 32 ((if s then 2 ^ 31 else 0) + f32MagBits m)

/-- The pattern of i2f(n) (R11). -/
def intBits (n : Int) : Word := f32ToBits 0 (f32OfInt n)

end Sys2Proof.Machine
end

