-- ==== Sys2Proof/Machine/DcScale.lean ====
section
/-! DEFINITION. What the spec states of the OPEN map DC_TO_COEF (41_coef_dequant.md R150, 90_conflicts.md C2): over the
intra DC range a DC value d is "about 8 times the pixel value", so that a DC-only block is a flat plane of about d / 8.
How near "about" is, the range, and that d counts as an integer under profile F too, are the model's choice: log 5. -/

namespace Sys2Proof.Machine

/-- The DC values of the property: the intra DC range [0, 2047] (R150, R151; 90_conflicts.md C2). DESIGN CHOICE, unsafe:
the pattern is read as an integer under profile F too, where the spec leaves open whether a DC value is an integer or a
binary32 pattern (R149; 91_not_in_source.md N12). Log 5. -/
def inDcDomain (d : Word) : Bool := decide (d.toNat ≤ 2047)

/-- The coefficient is at most one pixel step away from the one whose flat pixel is d / 8: 8 * d in profile G, whose
transform divides by 64 (42_idct.md R193), d / 8 in profile F. DESIGN CHOICE, unsafe, of the tolerance, and of d as the
integer of its pattern under profile F, which the spec leaves open (R149; 91_not_in_source.md N12): log 5. -/
def coefAboutDc (p : Profile) (d c : Word) : Bool :=
  match p with
  | .g => decide ((c.toInt - 8 * (d.toNat : Int)).natAbs ≤ 64)
  | .f =>
    match f32OfBits c with
    | .fin neg m => decide ((8 * signedMag neg m - (d.toNat : Int) * 2 ^ 149).natAbs ≤ 8 * 2 ^ 149)
    | .inf _ => false
    | .nan => false

/-- What R150 constrains: nothing outside the DC values of the property. -/
def dcToCoefOk (p : Profile) (d c : Word) : Bool := !inDcDomain d || coefAboutDc p d c

/-- The scaled DC value, in profile F of its whole eighth: only the witness that a map with the property exists. -/
def dcScaled (p : Profile) (d : Word) : Word :=
  match p with
  | .g => 8 * d
  | .f => f32ToBits 0 (.fin false ((d.toNat / 8) <<< 149))

/-- The witness has the property. -/
theorem dcScaled_ok (p : Profile) (d : Word) : dcToCoefOk p d (dcScaled p d) = true := by
  cases h : inDcDomain d
  · simp [dcToCoefOk, h]
  · have le : d.toNat ≤ 2047 := of_decide_eq_true h
    cases p
    · have table : ∀ q : Fin 256, f32OfBits (f32ToBits 0 (.fin false (q.val <<< 149))) = .fin false (q.val <<< 149) := by
        decide +kernel
      have e : f32OfBits (dcScaled .f d) = .fin false ((d.toNat / 8) * 2 ^ 149) := by
        rw [dcScaled, ← Nat.shiftLeft_eq]
        exact table ⟨d.toNat / 8, by omega⟩
      rw [dcToCoefOk, coefAboutDc, e, h]
      simp only [signedMag, Bool.not_true, Bool.false_or, decide_eq_true_eq, Bool.false_eq_true, if_false]
      omega
    · have n : (8 * d).toNat = 8 * d.toNat := by
        rw [BitVec.toNat_mul]
        exact Nat.mod_eq_of_lt (by change 8 * d.toNat < 2 ^ 32; omega)
      have e : (8 * d).toInt = 8 * (d.toNat : Int) := by
        rw [BitVec.toInt_eq_toNat_of_lt (by omega), n, Nat.cast_mul]
        rfl
      rw [dcToCoefOk, coefAboutDc, dcScaled, e]
      simp

end Sys2Proof.Machine
end

