-- ==== Sys2Proof/Config.lean ====
section
/-! DEFINITION. What an implementation of the unit fixes: the read-only tables (10_state.md R42) as plain data, and the
free constants, which have no body, so that nothing can be proved of their values beyond their type.
The parameters to which the spec gives a default are plain definitions in Machine/Params.lean and beside the operations
that use them. -/

namespace Sys2Proof

/-! ## The read-only tables as data -/

/-- One entry of a VLC table (40_bitreader_vlc.md R108): the code as a number whose bit 0 is read first, its length,
and the symbol (at most 0xFFFF). -/
structure VlcEntry where
  code : Nat
  len : Nat
  sym : BitVec 16
  deriving DecidableEq, Repr, Inhabited

/-- A large magnitude class of AC_MAG: its base and how many raw bits it reads (41_coef_dequant.md R144). A class that
no entry lists is a small class, with `AC_MAG(cls) = (cls, 0)`. -/
structure AcClass where
  cls : BitVec 16
  base : Nat
  nbits : Nat
  deriving DecidableEq, Repr, Inhabited

/-- The run of one skip symbol (41_coef_dequant.md R145). -/
structure SkipEntry where
  sym : BitVec 16
  run : Nat
  deriving DecidableEq, Repr, Inhabited

/-- A known point of DC_DEQUANT: delta and quantizer index, and the scaled value (41_coef_dequant.md R149). -/
structure DcDequantPoint where
  delta : Word
  q : Word
  value : Word
  deriving DecidableEq, Repr, Inhabited

/-- A known point of DC_TO_COEF: a DC value and the coefficient (41_coef_dequant.md R150). -/
structure DcCoefPoint where
  d : Word
  value : Word
  deriving DecidableEq, Repr, Inhabited

/-- The tables of one profile that do not depend on its number format. -/
structure ProfileRom where
  /-- VLC_ROM[p][t]: `none` is an absent table (40_bitreader_vlc.md R108). -/
  vlc : Vector (Option (List VlcEntry)) 16
  /-- SCAN_ROM[p][LUMA] (41_coef_dequant.md R141). -/
  scanLuma : Vector (Fin 64) 64
  /-- SCAN_ROM[p][CHROMA] (R141). -/
  scanChroma : Vector (Fin 64) 64
  /-- The large classes of AC_MAG[p] (R144). -/
  acLarge : List AcClass
  /-- SKIP_RUN[p] (R145); a symbol that no entry lists has run 0. -/
  skipRuns : List SkipEntry
  /-- SKIP_ESC[p] (R145). -/
  skipEsc : BitVec 16
  /-- Known points of DC_DEQUANT[p] (R149); every other value is free. -/
  dcDequantPoints : List DcDequantPoint
  /-- Known points of DC_TO_COEF[p] (R150); every other value is free but for the property R150 states. -/
  dcCoefPoints : List DcCoefPoint
  deriving DecidableEq, Repr, Inhabited

/-- QMAT_ROM[p] and QSTEP_ROM[p] (41_coef_dequant.md R140) with the profile's number type and quantizer limit. -/
structure DequantRom (α : Type) (n : Nat) where
  lumaIntra : Vector α 64
  lumaInter : Vector α 64
  chromaIntra : Vector α 64
  chromaInter : Vector α 64
  step : Vector α n
  deriving DecidableEq, Repr, Inhabited

/-- The read-only tables of the unit (10_state.md R42): profile F holds binary32 patterns and 16 steps, profile G
integers and 37 steps (41_coef_dequant.md R140, R142). -/
structure Rom where
  profF : ProfileRom
  profG : ProfileRom
  deqF : DequantRom Word 16
  deqG : DequantRom Int 37
  deriving DecidableEq, Repr, Inhabited

/-! ## Well-formed tables -/

/-- 1 ≤ len ≤ 32 and code < 2^len (40_bitreader_vlc.md R108). -/
def VlcEntry.ok (e : VlcEntry) : Bool := decide (1 ≤ e.len) && decide (e.len ≤ 32) && decide (e.code < 2 ^ e.len)

/-- Two entries conflict: the bits of `a` begin those of `b` in read order, and they differ (R108). -/
def vlcConflict (a b : VlcEntry) : Bool :=
  decide (a.len ≤ b.len) && b.code % 2 ^ a.len == a.code && a != b

/-- A well-formed VLC table: its entries in range and no two in conflict (R108). -/
def vlcTableOk (t : List VlcEntry) : Bool :=
  t.all VlcEntry.ok && t.all fun a => t.all fun b => !vlcConflict a b

/-- A scan table is a permutation of 0..63 with scan[0] = 0 (41_coef_dequant.md R141). -/
def scanOk (s : Vector (Fin 64) 64) : Bool :=
  s[0] == 0 && (List.finRange 64).all fun p => s.toList.any fun q => q == p

/-- A large class is not class 0 and reads 1 to 32 raw bits (41_coef_dequant.md R144). -/
def AcClass.ok (e : AcClass) : Bool := e.cls != 0 && decide (1 ≤ e.nbits) && decide (e.nbits ≤ 32)

/-- The constraints the spec states on the tables of profile p. -/
def ProfileRom.ok (p : Profile) (r : ProfileRom) : Bool :=
  r.vlc.toList.all (fun t => (t.map vlcTableOk).getD true) && scanOk r.scanLuma && scanOk r.scanChroma
    && r.acLarge.all AcClass.ok && r.dcCoefPoints.all fun e => Machine.dcToCoefOk p e.d e.value

/-- The constraints the spec states on the unit's tables (40_bitreader_vlc.md R108, 41_coef_dequant.md R141, R144,
R150). -/
def Rom.ok (r : Rom) : Bool := r.profF.ok .f && r.profG.ok .g

/-- Tables with no VLC table, the identity scan and zeros: only the witness that well-formed tables exist. -/
def Rom.blank : Rom :=
  let p : ProfileRom :=
    { vlc := Vector.replicate 16 none, scanLuma := Vector.ofFn id, scanChroma := Vector.ofFn id, acLarge := [],
      skipRuns := [], skipEsc := 0, dcDequantPoints := [], dcCoefPoints := [] }
  { profF := p, profG := p, deqF := default, deqG := default }

/-- Tables with the proof that they meet the spec's constraints. -/
structure LawfulRom where
  rom : Rom := Rom.blank
  ok : rom.ok = true := by decide +kernel
  deriving Inhabited

/-- A map DC_TO_COEF with the proof that it has the property R150 states of it: a DC-only block is flat at about d / 8
(41_coef_dequant.md R150, 90_conflicts.md C2). The tolerance, and d as an integer under profile F, are the model's choice:
log 5. -/
structure LawfulDcToCoef where
  map : Profile → Word → Word := Machine.dcScaled
  ok : ∀ p d, Machine.dcToCoefOk p d (map p d) = true := by exact Machine.dcScaled_ok
  deriving Inhabited

/-! ## Free constants: OPEN parameters and values the spec leaves free

Each has no body: a statement about it holds for every value. -/

/-- The contents of the unit's tables, fixed at manufacture (10_state.md R42; OPEN in 00_scope.md R7). Log 4. Safe. -/
opaque Config.rom : LawfulRom

/-- DC_DEQUANT[p](delta, q) at the points the tables do not list (41_coef_dequant.md R149; OPEN). Log 5. Safe. -/
opaque Config.dcDequant : Profile → Word → Word → Word

/-- DC_TO_COEF[p](d) at the points the tables do not list, with the property R150 states of it (OPEN). Log 5. Unsafe
for the choices of the property. -/
opaque Config.dcToCoef : LawfulDcToCoef

/-- The 4 KiB page at which the host sees the register window: B2BDU_BASE / 4096 (20_memory.md R68; OPEN). Log 18. Safe. -/
opaque Config.windowPage : Nat

/-- The sign and fraction of the NaN a binary32 product of two patterns gives (00_scope.md R11 fixes none). Log 7. Safe. -/
opaque Config.nanBits : Word → Word → Word

/-- What a host read that is not an aligned 32-bit access returns (20_memory.md R65), per draw. Log 13. Safe. -/
opaque Config.oddRead : Nat → Word

/-- Whether a soft reset while busy lets the pending command complete (70_reset_and_hazards.md R282), per draw.
Log 11. Safe. -/
opaque Config.resetCompletes : Nat → Bool

/-- Which of the bytes an address held since the command was accepted a racing command computes from
(70_reset_and_hazards.md R286), per draw and address. Log 12. Safe. -/
opaque Config.raceSource : Nat → Nat → Nat

/-- Whether a host read of a byte that the pending command writes gives the new byte (R286), per draw. Log 12. Safe. -/
opaque Config.raceReadsNew : Nat → Bool

end Sys2Proof
end

