-- ==== Sys2Proof/Machine/State.lean ====
section
/-! DEFINITION. The state of the unit as plain data (10_state.md), with bus memory and the host's pending actions, its
value after reset (70_reset_and_hazards.md R280), and the reasons a step can stop. -/

namespace Sys2Proof.Machine

/-- Bus memory: (address, byte) pairs in canonical form (addresses strictly rising, no entry equal to what an unlisted
address reads as). Its operations are in Machine/Ops.lean. -/
abbrev Memory := List Host.Cell

/-- One plane descriptor (10_state.md R37, R38, R39). -/
structure PlaneDesc where
  base : Word
  stride : Word
  dim : Word
  deriving DecidableEq, Repr, Inhabited

/-- The width of a host access to the register window. Only an aligned `word` access is defined (20_memory.md R65). -/
inductive AccessWidth where
  | byte
  | half
  | word
  | double
  deriving DecidableEq, Repr, Inhabited

/-- One action of the host (00_scope.md R6, 30_encoding.md R91). Log 1. -/
inductive HostAction where
  /-- Write `v` at the window offset (10_state.md R20; 20_memory.md R65). -/
  | write (off : BitVec 12) (width : AccessWidth) (v : Word)
  /-- Read at the window offset. -/
  | read (off : BitVec 12) (width : AccessWidth)
  /-- Write one byte of bus memory (20_memory.md R71, R72). -/
  | memWrite (addr : Word) (b : Byte)
  /-- Read one byte of bus memory. -/
  | memRead (addr : Word)
  /-- Read STATUS until BUSY = 0 (30_encoding.md R91). -/
  | wait
  deriving DecidableEq, Repr, Inhabited

/-- Why a step stops. The unit never stops: bus accesses do not fail, a host access never raises an error, and every
error of a command is a next state (60_exceptions.md R250, R251, R256). So there is no fault, and nothing raises one. -/
inductive Fault where
  deriving DecidableEq, Repr

/-- Why a step is refused. -/
inductive Refusal where
  /-- Raised by an arm of `exec` whose instruction has no meaning yet, with the mnemonic of the opcode table; every arm
  has its meaning, so no step raises it. Safe. -/
  | notModelled (mnemonic : String)
  deriving DecidableEq, Repr

/-- The state of the machine. STATUS is held by its fields (10_state.md R24); ERR is a view of `errcode`. -/
structure State where
  /-- CONFIG (10_state.md R23). -/
  config : Word
  /-- STATUS.BUSY (R24, R44): `cmd` is the pending command. -/
  busy : Bool
  /-- STATUS.DONE (R24). -/
  done : Bool
  /-- STATUS.OVERREAD (R24). -/
  overread : Bool
  /-- STATUS.BUDGET_WARN (R24). -/
  budgetWarn : Bool
  /-- STATUS.WWB (R24, R44). -/
  wwb : Bool
  /-- STATUS.ERRCODE (R24, 60_exceptions.md R250). -/
  errcode : Byte
  /-- IRQ_EN (R25). -/
  irqEn : Word
  /-- CMD (R27). -/
  cmd : Word
  /-- CMD_COUNT (R28). -/
  cmdCount : Word
  /-- OP0 to OP3 (R29). -/
  op0 : Word
  op1 : Word
  op2 : Word
  op3 : Word
  /-- RES0 (R30). -/
  res0 : Word
  /-- QIDX (R31). -/
  qidx : Word
  /-- ERRCMD (R32). -/
  errcmd : Word
  /-- ERRINFO (R33). -/
  errinfo : Word
  /-- BS_BASE (R34). -/
  bsBase : Word
  /-- BS_LEN (R35). -/
  bsLen : Word
  /-- BS_POS: BS_POS_HI and BS_POS_LO are its halves (R36). -/
  bsPos : BitVec 64
  /-- The plane descriptors: bank b, plane p at index 4*b + p (R37 to R39). -/
  planes : Vector PlaneDesc 8
  /-- COEF (R41). -/
  coef : Vector Word 64
  /-- The read-only tables (R42). -/
  rom : Rom
  /-- Bus memory (20_memory.md R60, R61). -/
  mem : Memory
  /-- The model's own: the host's actions still to come, in the order they meet the unit. Log 1. -/
  host : List HostAction
  /-- The model's own: what the last host read returned. Log 17. -/
  rdata : Word
  /-- The model's own: the bytes that host writes replaced while the current command is pending, newest first. Log 12. -/
  raced : List Host.Cell
  /-- The model's own: the counter the free choices are drawn with. Log 17. -/
  draws : Nat
  deriving DecidableEq, Repr

/-- The machine after power-on reset (70_reset_and_hazards.md R280, 10_state.md R20). Bus memory and the model's own
fields: logs 3 and 17. The tables have "their fixed contents": log 4. -/
def State.reset : State where
  config := 0
  busy := false
  done := false
  overread := false
  budgetWarn := false
  wwb := false
  errcode := 0
  irqEn := 0
  cmd := 0
  cmdCount := 0
  op0 := 0
  op1 := 0
  op2 := 0
  op3 := 0
  res0 := 0
  qidx := 0
  errcmd := 0
  errinfo := 0
  bsBase := 0
  bsLen := 0
  bsPos := 0
  planes := Vector.replicate 8 ⟨0, 0, 0⟩
  coef := Vector.replicate 64 0
  rom := Config.rom.rom
  mem := []
  host := []
  rdata := 0
  raced := []
  draws := 0

end Sys2Proof.Machine
end

