-- ==== Sys2Proof/Machine/Params.lean ====
section
/-! DEFINITION. The constants of the register map and the parameters to which the spec gives a default
(00_scope.md R7, 93_implementation_defined.md). Log 14 lists the defaults; the kernels, filters and the reposition table
stand beside the commands that use them (log 15). -/

namespace Sys2Proof.Machine

/-- ID reads this constant (10_state.md R21). -/
def idWord : Word := 0x42324455

/-- VERSION reads this constant (R22). -/
def versionWord : Word := 0x00000007

/-- QLIM(p): 16 for profile F, 37 for profile G (41_coef_dequant.md R142). -/
def qlim : Profile → Nat
  | .f => 16
  | .g => 37

/-- VAL_TID(n): the VLC table of the n-th magnitude class (R147, default 0). -/
def valTid (_n : Nat) : BitVec 4 := 0

/-- SKIP_TID(n): the VLC table of the n-th skip (R147, default 1). -/
def skipTid (_n : Nat) : BitVec 4 := 1

/-- SKIP_AFTER_ZERO (R147, default true; 90_conflicts.md C5). -/
def skipAfterZero : Bool := true

/-- G_AC_NORM (R146, default the identity). -/
def gAcNorm (v : Int) : Int := v

/-- DC_AVG (R155, default the average truncated toward zero). -/
def dcAvg (a b : Int) : Int := (a + b).tdiv 2

/-- Which axis the first transform pass runs along (42_idct.md R181). -/
inductive PassOrder where
  | columnsFirst
  | rowsFirst
  deriving DecidableEq, Repr

/-- IDCT_ORDER[p] (R181, default columns first for both profiles). -/
def idctOrder : Profile → PassOrder
  | .f => .columnsFirst
  | .g => .columnsFirst

/-- How Add converts a binary32 residual to an integer (42_idct.md R187). -/
inductive AddConversion where
  | floor
  | trunc
  deriving DecidableEq, Repr

/-- F_ADD_CVT (R187, default floor). -/
def fAddCvt : AddConversion := .floor

/-- LUMA_REPOS (R189; general knowledge, 93_implementation_defined.md I5). Log 15: PRESUMED. -/
def lumaRepos : List Nat := [0, 1, 4, 5, 2, 3, 6, 7, 8, 9, 12, 13, 10, 11, 14, 15]

end Sys2Proof.Machine
end

