-- ==== Sys2Proof/Machine/Ops.lean ====
section
/-! DEFINITION. The shared operations: bus memory (20_memory.md R60, R61), what a command reads of it, the bitstream
(40_bitreader_vlc.md R100, R101), VLC decoding (R108, R109), the tables (10_state.md R42), and how a command ends: by
completing (60_exceptions.md R257) or by raising an error (R250, R251), and the return from an error (R255). -/

namespace Sys2Proof.Machine

/-! ## Binary32 patterns -/

/-- `a *f b` on patterns (00_scope.md R11). The bits of a NaN result are free (log 7). -/
def mulBits (a b : Word) : Word := f32ToBits (Config.nanBits a b) (f32Mul (f32OfBits a) (f32OfBits b))

/-! ## Bus memory -/

/-- What a byte of bus memory that nothing has written reads as. The spec leaves it to the platform
(70_reset_and_hazards.md R280). DESIGN CHOICE, unsafe: log 3. -/
def unlistedByte : Byte := 0

/-- One byte of a memory (20_memory.md R61). -/
def memGet : Memory → Nat → Byte
  | [], _ => unlistedByte
  | (b, w) :: m, a => if a = b then w else memGet m a

/-- Writing one byte, keeping the canonical form (20_memory.md R61). -/
def memSet : Memory → Nat → Byte → Memory
  | [], a, v => if v = unlistedByte then [] else [(a, v)]
  | (b, w) :: m, a, v =>
    if a < b then (if v = unlistedByte then (b, w) :: m else (a, v) :: (b, w) :: m)
    else if a = b then (if v = unlistedByte then m else (a, v) :: m)
    else (b, w) :: memSet m a v

/-- Every address is above `lo`, they rise strictly and stay below 2^32, and no entry equals what an unlisted address
reads as. -/
def Memory.wfAbove : Memory → Nat → Bool
  | [], _ => true
  | (a, v) :: m, lo => decide (lo ≤ a) && decide (a < 2 ^ 32) && v != unlistedByte && Memory.wfAbove m (a + 1)

/-- The canonical form of a memory. -/
def Memory.wf (m : Memory) : Bool := Memory.wfAbove m 0

/-- Writing the given cells one after another (70_reset_and_hazards.md R283: ordered byte accesses). -/
def memStore (m : Memory) (cells : List (Word × Byte)) : Memory :=
  cells.foldl (fun m c => memSet m c.1.toNat c.2) m

/-- The bytes that host writes replaced at this address while the command is pending (R286). -/
def racedBytes (s : State) (a : Nat) : List Byte := (s.raced.filter fun c => c.1 == a).map Prod.snd

/-- MemRead(addr, 1) as a command does it (00_scope.md R12): the byte in memory; where the host wrote this byte while
the command was pending, any of the bytes it held since then, chosen per byte (R286, log 12). -/
def busRead (s : State) (a : Word) : Byte :=
  match racedBytes s a.toNat with
  | [] => memGet s.mem a.toNat
  | old :: more =>
    let all := memGet s.mem a.toNat :: old :: more
    all.getD (Config.raceSource s.draws a.toNat % all.length) (memGet s.mem a.toNat)

/-! ## Profile, banks, planes -/

/-- CONFIG.PROFILE (10_state.md R23). -/
def State.profile (s : State) : Profile := if s.config.getLsbD 0 then .g else .f

/-- CONFIG.REF_VALID (R23). -/
def State.refValid (s : State) : Bool := s.config.getLsbD 1

/-- The output bank OUT = CONFIG.OUTSEL (R40): `false` is bank 0. -/
def State.outBank (s : State) : Bool := s.config.getLsbD 2

/-- The reference bank REF = 1 - OUT (R40). -/
def State.refBank (s : State) : Bool := !s.outBank

/-- The number of a plane (10_state.md R20). -/
def planeNum : Plane → Fin 4
  | .y => 0
  | .u => 1
  | .v => 2
  | .a => 3

/-- Where `planes` holds the descriptor of plane p of bank b. -/
def planeIndex (bank : Bool) (p : Plane) : Fin 8 :=
  match bank with
  | false => (planeNum p).castLE (by decide)
  | true => ⟨4 + (planeNum p).val, by omega⟩

/-- The descriptor of plane p of bank b (R37 to R39). -/
def State.plane (s : State) (bank : Bool) (p : Plane) : PlaneDesc := s.planes.get (planeIndex bank p)

/-- WIDTH of PL_DIM, bits 15:0 (R39). -/
def planeWidth (d : PlaneDesc) : Nat := (d.dim.extractLsb' 0 16).toNat

/-- HEIGHT of PL_DIM, bits 31:16 (R39). -/
def planeHeight (d : PlaneDesc) : Nat := (d.dim.extractLsb' 16 16).toNat

/-- The bus address of sample (x, y): base + y * stride + x modulo 2^32 (20_memory.md R61, R62). -/
def sampleAddr (d : PlaneDesc) (x y : Nat) : Word := d.base + BitVec.ofNat 32 y * d.stride + BitVec.ofNat 32 x

/-- SAMPLE(bank, p, x, y) as a number (00_scope.md R12). -/
def sample (s : State) (d : PlaneDesc) (x y : Nat) : Int := ((busRead s (sampleAddr d x y)).toNat : Int)

/-- The cells of one row of a block whose first sample is (x, y). -/
def rowCells (d : PlaneDesc) (x y : Nat) : List Byte → List (Word × Byte)
  | [] => []
  | v :: vs => (sampleAddr d x y, v) :: rowCells d (x + 1) y vs

/-- The cells of a block whose top-left sample is (x, y), row by row from the top (42_idct.md R191, 43_motion_comp.md
R217, R218). -/
def blockCells (d : PlaneDesc) (x y : Nat) : List (List Byte) → List (Word × Byte)
  | [] => []
  | row :: rows => rowCells d x y row ++ blockCells d x (y + 1) rows

/-- Writing a block into a plane: every value was computed before any is written (20_memory.md R70). -/
def storeBlock (s : State) (d : PlaneDesc) (x y : Nat) (rows : List (List Byte)) : State :=
  { s with mem := memStore s.mem (blockCells d x y rows) }

/-! ## The bitstream -/

/-- bit(p): the bitstream bit at position p, 0 beyond the buffer, where no memory is read (40_bitreader_vlc.md R100). -/
def bitAt (s : State) (p : Nat) : Bool :=
  if p < 8 * unsigned s.bsLen then (busRead s (s.bsBase + BitVec.ofNat 32 (p >>> 3))).getLsbD (p % 8) else false

/-- The sum over i < n of bit(pos + i) << i, with pos + i not wrapped (R101; log 9: DEDUCED). -/
def peekFrom (s : State) (pos : Nat) : Nat → Nat
  | 0 => 0
  | n + 1 => peekFrom s pos n + (bitAt s (pos + n)).toNat * 2 ^ n

/-- peek_bits(n) at a cursor (R101). -/
def peekBits (s : State) (pos : BitVec 64) (n : Nat) : Nat := peekFrom s pos.toNat n

/-- The cursor after n more bits: modulo 2^64 (10_state.md R36). -/
def advance (pos : BitVec 64) (n : Nat) : BitVec 64 := pos + BitVec.ofNat 64 n

/-! ## VLC decoding -/

/-- The entry of the table that the next bits match, if any (R109). The tables are well-formed, so at most one does. -/
def vlcMatch (s : State) (pos : BitVec 64) (t : List VlcEntry) : Option VlcEntry :=
  t.find? fun e => peekBits s pos e.len == e.code

/-! ## The read-only tables -/

/-- The format-independent tables of a profile. -/
def romProf (r : Rom) : Profile → ProfileRom
  | .f => r.profF
  | .g => r.profG

/-- VLC_ROM[p][t] (40_bitreader_vlc.md R108). -/
def vlcTable (r : Rom) (p : Profile) (t : BitVec 4) : Option (List VlcEntry) := (romProf r p).vlc.get t.toFin

/-- SCAN_ROM[p][c] (41_coef_dequant.md R141). -/
def scanTable (r : Rom) (p : Profile) : PlaneClass → Vector (Fin 64) 64
  | .luma => (romProf r p).scanLuma
  | .chroma => (romProf r p).scanChroma

/-- QMAT_ROM[p][c][k] of a dequantization ROM (R140). -/
def quantMatrix {α : Type} {n : Nat} (d : DequantRom α n) : PlaneClass → CodingClass → Vector α 64
  | .luma, .intra => d.lumaIntra
  | .luma, .inter => d.lumaInter
  | .chroma, .intra => d.chromaIntra
  | .chroma, .inter => d.chromaInter

/-- QSTEP_ROM[p][q] for q in range; every caller has checked the range (R140, R142). -/
def quantStep {α : Type} [Inhabited α] {n : Nat} (d : DequantRom α n) (q : Nat) : α :=
  if h : q < n then d.step.get ⟨q, h⟩ else default

/-- AC_MAG[p](cls) = (base, nbits) (R144; log 6). -/
def acMag (r : Rom) (p : Profile) (cls : BitVec 16) : Nat × Nat :=
  match (romProf r p).acLarge.find? fun e => e.cls == cls with
  | some e => (e.base, e.nbits)
  | none => (cls.toNat, 0)

/-- SKIP_RUN[p](sym) (R145; log 6). -/
def skipRun (r : Rom) (p : Profile) (sym : BitVec 16) : Nat :=
  match (romProf r p).skipRuns.find? fun e => e.sym == sym with
  | some e => e.run
  | none => 0

/-- DC_DEQUANT[p](delta, q) (R149; log 5). -/
def dcDequantValue (r : Rom) (p : Profile) (delta q : Word) : Word :=
  match (romProf r p).dcDequantPoints.find? fun e => e.delta == delta && e.q == q with
  | some e => e.value
  | none => Config.dcDequant p delta q

/-- DC_TO_COEF[p](d) (R150; log 5). With tables that meet their constraints it is about 8 times the pixel value over the
intra DC range (Laws/Ops.lean `dcCoefValue_about`). -/
def dcCoefValue (r : Rom) (p : Profile) (d : Word) : Word :=
  match (romProf r p).dcCoefPoints.find? fun e => e.d == d with
  | some e => e.value
  | none => Config.dcToCoef.map p d

/-! ## How a command ends -/

/-- The errors of the unit (60_exceptions.md R250). -/
inductive ErrKind where
  | illegal
  | vlc
  | qrange
  | noref
  | dst
  | range
  deriving DecidableEq, Repr

/-- The code of an error in STATUS.ERRCODE (R250). -/
def errCode : ErrKind → Byte
  | .illegal => 0x01
  | .vlc => 0x02
  | .qrange => 0x03
  | .noref => 0x04
  | .dst => 0x05
  | .range => 0x06

/-- `raise E_NAME(info)` (00_scope.md R12). -/
structure Raise where
  kind : ErrKind
  info : Word
  deriving DecidableEq, Repr

/-- BUSY becomes 0 and no command is pending (10_state.md R44). -/
def retire (s : State) : State := { s with busy := false, raced := [] }

/-- Successful completion (60_exceptions.md R257). -/
def complete (s : State) : State := retire { s with done := true, cmdCount := s.cmdCount + 1 }

/-- Raising an error: the ONE place where the unit takes one (R251). ERRCMD gets the command word, which CMD holds while
the command is pending (10_state.md R27, R44). DONE, CMD_COUNT and RES0 keep their values. -/
def raiseError (e : Raise) (s : State) : State :=
  retire { s with errcode := errCode e.kind, errcmd := s.cmd, errinfo := e.info }

/-- The return from an error: the host's write of 1 to STATUS.ERR sets ERRCODE to 0 and nothing else (R255). -/
def clearError (s : State) : State := { s with errcode := 0 }

/-- The end of a command: with an error or without. -/
def endCommand (r : Option Raise) (s : State) : State :=
  match r with
  | some e => raiseError e s
  | none => complete s

/-- E_ILLEGAL(0) (30_encoding.md R89, 60_exceptions.md R250). -/
def raiseIllegal (s : State) : State := raiseError ⟨.illegal, 0⟩ s

/-- The word the engine executes: the pending command, which CMD holds (10_state.md R27, R44). -/
def fetch (s : State) : Word := s.cmd

end Sys2Proof.Machine
end

