-- ==== Sys2Proof/Machine/Flags.lean ====
section
/-! DEFINITION. The flags of the unit: STATUS and its fields (10_state.md R24, R46), the warnings (60_exceptions.md
R259), and the interrupt output (R258). The unit has no condition codes (R46). -/

namespace Sys2Proof.Machine

/-- A flag as a bit of a register. -/
def statusBit (b : Bool) (pos : Nat) : Word := if b then 1#32 <<< pos else 0#32

/-- STATUS.ERR reads 1 exactly when ERRCODE is nonzero (R24). -/
def State.err (s : State) : Bool := s.errcode != 0

/-- The STATUS register as it reads (R24). -/
def statusWord (s : State) : Word :=
  statusBit s.busy 0 ||| statusBit s.done 1 ||| statusBit s.err 2 ||| statusBit s.overread 3
    ||| statusBit s.budgetWarn 4 ||| statusBit s.wwb 5 ||| s.errcode.setWidth 32 <<< 8

/-- Clearing the W1C fields whose bit in the written value is 1, apart from ERR (R24). -/
def clearFlags (v : Word) (s : State) : State :=
  { s with
    done := s.done && !v.getLsbD 1
    overread := s.overread && !v.getLsbD 3
    budgetWarn := s.budgetWarn && !v.getLsbD 4
    wwb := s.wwb && !v.getLsbD 5 }

/-- A write of STATUS: the W1C fields; bit 2 clears the error (R24, 60_exceptions.md R255). -/
def writeStatus (v : Word) (s : State) : State :=
  if v.getLsbD 2 then clearError (clearFlags v s) else clearFlags v s

/-- The cursor is beyond the buffer (40_bitreader_vlc.md R102). -/
def beyondBuffer (s : State) : Bool := decide (s.bsPos.toNat > 8 * unsigned s.bsLen)

/-- The overread warning at the end of a bit-consuming command (R102). -/
def noteOverread (s : State) : State := { s with overread := s.overread || beyondBuffer s }

/-- The end of a bit-consuming command, with or without an error (R102; log 10). -/
def endBitCommand (r : Option Raise) (s : State) : State := endCommand r (noteOverread s)

/-- The cursor is more than 24 bits from the declared end, either way (R107). -/
def budgetMismatch (pos target : Nat) : Bool :=
  let d : Int := (pos : Int) - (target : Int)
  decide (d > 24) || decide (d < -24)

/-- The interrupt output IRQ (60_exceptions.md R258). It has no storage: it follows STATUS and IRQ_EN in every step. -/
def State.irq (s : State) : Bool :=
  (s.done && s.irqEn.getLsbD 0) || (s.err && s.irqEn.getLsbD 1)
    || ((s.overread || s.budgetWarn) && s.irqEn.getLsbD 2)

end Sys2Proof.Machine
end

