-- ==== Sys2Proof/Machine/Operands.lean ====
section
/-! DEFINITION. How commands take their operands (30_encoding.md R87): the DC range of a coding class, the destination
of a block (42_idct.md R189, R190), and the position, phase and read set of a motion vector (43_motion_comp.md R210,
R216). -/

namespace Sys2Proof.Machine

/-- DCLO(INTER) (41_coef_dequant.md R151). -/
def dcLo : CodingClass → Int
  | .intra => 0
  | .inter => -1023

/-- DCHI(INTER) (R151). -/
def dcHi : CodingClass → Int
  | .intra => 2047
  | .inter => 1023

/-- Clamping to the DC range of a coding class (R151). -/
def dcClampTo (k : CodingClass) (v : Int) : Int := clamp v (dcLo k) (dcHi k)

/-- The quantizer index is out of range for the profile in force (R142). -/
def qidxOutOfRange (s : State) : Bool := decide (qlim s.profile ≤ unsigned s.qidx)

/-! ## Destination of a block -/

/-- The raster index q = LUMA_REPOS[BLK] (42_idct.md R189). -/
def reposIndex (blk : BitVec 4) : Nat := lumaRepos.getD blk.toNat 0

/-- The top-left sample of a transform's destination (R189), unwrapped. -/
def destPos (s : State) (repos : Bool) (blk : BitVec 4) : Nat × Nat :=
  if repos then (unsigned s.op0 + 8 * (reposIndex blk % 4), unsigned s.op1 + 8 * (reposIndex blk / 4))
  else (unsigned s.op0, unsigned s.op1)

/-- The block with top-left sample (x, y) and the given size lies inside the plane (R190). -/
def blockInside (d : PlaneDesc) (x y size : Nat) : Bool :=
  decide (x + size ≤ planeWidth d) && decide (y + size ≤ planeHeight d)

/-! ## Motion vectors -/

/-- A motion vector against its destination, one axis: the integer position and the phase (43_motion_comp.md R210). -/
structure AxisPos where
  pos : Int
  phase : Int
  deriving DecidableEq, Repr

/-- IX and PX (IY and PY) of R210, with F fractional bits. -/
def axisPos (dest : Word) (mv : Word) (f : Nat) : AxisPos :=
  { pos := (unsigned dest : Int) + asr (signed mv) f, phase := lowBits (signed mv) f }

/-- The read set of MC_L along one axis: [P - 2, P + 18] at a fractional phase, else [P, P + 15] (R216). -/
def lumaReadSet (a : AxisPos) : Int × Int :=
  if a.phase = 1 then (a.pos - 2, a.pos + 18) else (a.pos, a.pos + 15)

/-- The read set of MC_C along one axis: [P, P + 8] at a fractional phase, else [P, P + 7] (R216). -/
def chromaReadSet (a : AxisPos) : Int × Int :=
  if a.phase ≠ 0 then (a.pos, a.pos + 8) else (a.pos, a.pos + 7)

/-- Every column (row) of the range lies in [0, limit) (R216, MC_WINDOW = READ_SET; log 14). -/
def rangeInside (r : Int × Int) (limit : Nat) : Bool := decide (0 ≤ r.1) && decide (r.2 < (limit : Int))

/-- The read set lies inside the reference plane (R216). -/
def windowInside (d : PlaneDesc) (cols rows : Int × Int) : Bool :=
  rangeInside cols (planeWidth d) && rangeInside rows (planeHeight d)

end Sys2Proof.Machine
end

