-- ==== Sys2Proof/Machine/BitReader.lean ====
section
/-! DEFINITION. The bit reader commands and VLC_DEC (40_bitreader_vlc.md R103 to R110). -/

namespace Sys2Proof.Machine

/-- BR_READ n (R103): an N-bit field into RES0. With N above 32 the word is illegal (30_encoding.md R89(c)): the decoder
refuses it, and the meaning raises the same error. -/
def execBrRead (n : BitVec 6) (s : State) : Host.Outcome State Fault Refusal :=
  .next (if bitCountOk n then
      endBitCommand none
        { s with res0 := BitVec.ofNat 32 (peekBits s s.bsPos n.toNat), bsPos := advance s.bsPos n.toNat }
    else raiseIllegal s)

/-- BR_SKIP (R104): the cursor moves by OP0 bits. -/
def execBrSkip (s : State) : Host.Outcome State Fault Refusal :=
  .next (endBitCommand none { s with bsPos := advance s.bsPos (unsigned s.op0) })

/-- `(pos + 7) & ~7`, modulo 2^64 (R105). -/
def alignUp (pos : BitVec 64) : BitVec 64 := BitVec.ofNat 64 ((pos.toNat + 7) / 8 * 8)

/-- BR_ALIGN (R105): the cursor moves to the next byte boundary. -/
def execBrAlign (s : State) : Host.Outcome State Fault Refusal :=
  .next (endBitCommand none { s with bsPos := alignUp s.bsPos })

/-- The state after a sign bit is applied to OP0 (R106); a zero magnitude reads no bit. -/
def signApplied (s : State) : State :=
  let m := signed s.op0
  if m = 0 then { s with res0 := 0 }
  else
    { s with
      res0 := wrap32 (if peekBits s s.bsPos 1 = 1 then -m else m)
      bsPos := advance s.bsPos 1 }

/-- BR_SIGN (R106). -/
def execBrSign (s : State) : Host.Outcome State Fault Refusal :=
  .next (endBitCommand none (signApplied s))

/-- The declared end of a slice as a bit position: 8 * E (R107). -/
def realignTarget (s : State) : Nat := 8 * unsigned s.op0

/-- BR_REALIGN (R107): the bit-budget check, then the cursor at the declared end. Not bit-consuming. -/
def execBrRealign (s : State) : Host.Outcome State Fault Refusal :=
  .next (endCommand none
    { s with
      budgetWarn := s.budgetWarn || budgetMismatch s.bsPos.toNat (realignTarget s)
      bsPos := BitVec.ofNat 64 (realignTarget s) })

/-- One symbol of a table at a cursor: the symbol and the cursor after it, or the error (R108, R109, R110). -/
def vlcSymbol (s : State) (pos : BitVec 64) (t : Option (List VlcEntry)) : Except Raise (BitVec 16 × BitVec 64) :=
  match t with
  | none => .error ⟨.illegal, 0⟩
  | some entries =>
    match vlcMatch s pos entries with
    | none => .error ⟨.vlc, pos.setWidth 32⟩
    | some e => .ok (e.sym, advance pos e.len)

/-- VLC_DEC t (R110). -/
def execVlcDec (tid : BitVec 4) (s : State) : Host.Outcome State Fault Refusal :=
  .next (match vlcSymbol s s.bsPos (vlcTable s.rom s.profile tid) with
    | .error e => endBitCommand (some e) s
    | .ok (sym, pos) => endBitCommand none { s with res0 := sym.setWidth 32, bsPos := pos })

end Sys2Proof.Machine
end

