-- ==== Sys2Proof/Machine/Coef.lean ====
section
/-! DEFINITION. Coefficient decode, dequantization and the DC arithmetic (41_coef_dequant.md R143 to R156). -/

namespace Sys2Proof.Machine

/-! ## Quantizer index and the coefficient file -/

/-- QSET (R143). -/
def execQset (s : State) : Host.Outcome State Fault Refusal :=
  .next (if signed s.op0 < 0 ∨ (qlim s.profile : Int) ≤ signed s.op0 then endCommand (some ⟨.qrange, s.op0⟩) s
    else endCommand none { s with qidx := s.op0 })

/-- The coefficient file with every entry 0 (R147, R148). -/
def zeroCoef : Vector Word 64 := Vector.replicate 64 0

/-- COEF_CLEAR (R148). -/
def execCoefClear (s : State) : Host.Outcome State Fault Refusal :=
  .next (endCommand none { s with coef := zeroCoef })

/-! ## Dequantization of one value -/

/-- DEQ(F, v, q, m): two binary32 products, left to right (R146). -/
def deqF (v : Int) (q m : Word) : Word := mulBits (mulBits (intBits v) q) m

/-- DEQ(G, v, q, m): the exact integer product, normalised; `none` outside 32 bits (R146). -/
def deqG (v q m : Int) : Option Word :=
  let r := gAcNorm (v * q * m)
  if fits32 r then some (wrap32 r) else none

/-- The value AC_DECODE writes at natural position i, or `none` for E_RANGE(0) (R146). -/
def dequant (s : State) (c : PlaneClass) (k : CodingClass) (v : Int) (i : Fin 64) : Option Word :=
  match s.profile with
  | .f => some (deqF v (quantStep s.rom.deqF (unsigned s.qidx)) ((quantMatrix s.rom.deqF c k).get i))
  | .g => deqG v (quantStep s.rom.deqG (unsigned s.qidx)) ((quantMatrix s.rom.deqG c k).get i)

/-! ## AC decode -/

/-- What one AC_DECODE holds inside the command (10_state.md R43, 41_coef_dequant.md R147): the scan index, the counts
of decoded classes and skips, the cursor and the coefficient file. -/
structure AcRun where
  idx : Nat
  nv : Nat
  ns : Nat
  pos : BitVec 64
  coef : Vector Word 64
  deriving DecidableEq, Repr

/-- The value of one coded position: the class symbol's base and raw bits, and the sign bit of a nonzero magnitude; with
the cursor after them (R147). -/
def acValue (s : State) (pos : BitVec 64) (cls : BitVec 16) : Int × BitVec 64 :=
  let bn := acMag s.rom s.profile cls
  let mag := bn.1 + peekBits s pos bn.2
  let pos := advance pos bn.2
  if mag = 0 then (0, pos)
  else (if peekBits s pos 1 = 1 then -(mag : Int) else (mag : Int), advance pos 1)

/-- The run of a skip symbol and the cursor after it (R145, R147). -/
def acSkip (s : State) (pos : BitVec 64) (sym : BitVec 16) : Nat × BitVec 64 :=
  if sym = (romProf s.rom s.profile).skipEsc then (peekBits s pos 6, advance pos 6)
  else (skipRun s.rom s.profile sym, pos)

/-- The class and value part of one round of the loop: the state after it and the value, or the state the error leaves
and the error (R147). -/
def acCode (s : State) (c : PlaneClass) (k : CodingClass) (r : AcRun) : Except (AcRun × Raise) (AcRun × Int) :=
  match vlcSymbol s r.pos (vlcTable s.rom s.profile (valTid r.nv)) with
  | .error e => .error (r, e)
  | .ok (cls, pos) =>
    let vp := acValue s pos cls
    let r := { r with nv := r.nv + 1, pos := vp.2 }
    if vp.1 = 0 then .ok (r, 0)
    else
      let i : Fin 64 := (scanTable s.rom s.profile c).get (Fin.ofNat 64 r.idx)
      match dequant s c k vp.1 i with
      | none => .error (r, ⟨.range, 0⟩)
      | some w => .ok ({ r with coef := r.coef.set i w }, vp.1)

/-- The loop of AC_DECODE (R147). `fuel` bounds the rounds: the scan index rises in every round, so 63 rounds reach 64.
`afterZero` is SKIP_AFTER_ZERO. -/
def acLoop (s : State) (c : PlaneClass) (k : CodingClass) (afterZero : Bool) : Nat → AcRun → AcRun × Option Raise
  | 0, r => (r, none)
  | fuel + 1, r =>
    if 64 ≤ r.idx then (r, none)
    else
      match acCode s c k r with
      | .error (r, e) => (r, some e)
      | .ok (r, v) =>
        if r.idx = 63 then (r, none)
        else if v = 0 ∧ afterZero = false then acLoop s c k afterZero fuel { r with idx := r.idx + 1 }
        else
          match vlcSymbol s r.pos (vlcTable s.rom s.profile (skipTid r.ns)) with
          | .error e => (r, some e)
          | .ok (sym, pos) =>
            let rp := acSkip s pos sym
            acLoop s c k afterZero fuel { r with idx := r.idx + 1 + rp.1, ns := r.ns + 1, pos := rp.2 }

/-- The start of the loop: the file zeroed, scan index 1 (R147). -/
def acStart (s : State) : AcRun := { idx := 1, nv := 0, ns := 0, pos := s.bsPos, coef := zeroCoef }

/-- AC_DECODE with SKIP_AFTER_ZERO as an argument (R147). -/
def acDecodeWith (afterZero : Bool) (c : PlaneClass) (k : CodingClass) (s : State) : State :=
  if qidxOutOfRange s then endBitCommand (some ⟨.qrange, s.qidx⟩) s
  else
    let out := acLoop s c k afterZero 64 (acStart s)
    endBitCommand out.2 { s with bsPos := out.1.pos, coef := out.1.coef }

/-- AC_DECODE C, K (R147). -/
def execAcDecode (c : PlaneClass) (k : CodingClass) (s : State) : Host.Outcome State Fault Refusal :=
  .next (acDecodeWith skipAfterZero c k s)

/-! ## DC dequantization and insertion -/

/-- DC_DEQUANT (R149). -/
def execDcDequant (s : State) : Host.Outcome State Fault Refusal :=
  .next (if qidxOutOfRange s then endCommand (some ⟨.qrange, s.qidx⟩) s
    else endCommand none { s with res0 := dcDequantValue s.rom s.profile s.op0 s.qidx })

/-- DC_INSERT (R150). -/
def execDcInsert (s : State) : Host.Outcome State Fault Refusal :=
  .next (endCommand none { s with coef := s.coef.set 0 (dcCoefValue s.rom s.profile s.op0) })

/-! ## DC predictor arithmetic -/

/-- A command whose whole effect is a value in RES0. -/
def withRes0 (v : Word) (s : State) : State := endCommand none { s with res0 := v }

/-- The seed of a coding class (R152). -/
def dcSeedValue : CodingClass → Word
  | .intra => 1024
  | .inter => 0

/-- DC_SEED K (R152). -/
def execDcSeed (k : CodingClass) (s : State) : Host.Outcome State Fault Refusal :=
  .next (withRes0 (dcSeedValue k) s)

/-- DC_CLAMP K (R153). -/
def execDcClamp (k : CodingClass) (s : State) : Host.Outcome State Fault Refusal :=
  .next (withRes0 (wrap32 (dcClampTo k (signed s.op0))) s)

/-- MPRED before the clamp: the gradient C + B - A held between the least and the greatest of A, B, C (R154). -/
def mpred (a b c : Int) : Int := min (max (c + b - a) (min3 a b c)) (max3 a b c)

/-- DC_MPRED K (R154). -/
def execDcMpred (k : CodingClass) (s : State) : Host.Outcome State Fault Refusal :=
  .next (withRes0 (wrap32 (dcClampTo k (mpred (signed s.op0) (signed s.op1) (signed s.op2)))) s)

/-- DC_MPRED2 K (R155). -/
def execDcMpred2 (k : CodingClass) (s : State) : Host.Outcome State Fault Refusal :=
  .next (withRes0 (wrap32 (dcClampTo k (dcAvg (signed s.op0) (signed s.op1)))) s)

/-- MID_PRED (R156). -/
def execMidPred (s : State) : Host.Outcome State Fault Refusal :=
  .next (withRes0 (wrap32 (median3 (signed s.op0) (signed s.op1) (signed s.op2))) s)

end Sys2Proof.Machine
end

