-- ==== Sys2Proof/Machine/Idct.lean ====
section
/-! DEFINITION. The inverse transform commands (42_idct.md R180 to R193): the profile G kernel on integers, the profile F
kernel on binary32 values, the two passes, the pixel conversions, and the two commands. The two butterflies are the spec's
defaults of G_KERNEL and F_KERNEL, taken there from general knowledge (log 15: PRESUMED). -/

namespace Sys2Proof.Machine

/-! ## Eight values and 8x8 blocks -/

/-- Eight values: the inputs or outputs of a 1-D transform, a row of a block. -/
structure Oct (α : Type) where
  a0 : α
  a1 : α
  a2 : α
  a3 : α
  a4 : α
  a5 : α
  a6 : α
  a7 : α
  deriving DecidableEq, Repr, Inhabited

/-- A block: eight rows of eight values. Entry (y, x) is value x of row y (42_idct.md R180). -/
abbrev Block (α : Type) := Oct (Oct α)

/-- The eight values of a function of the index. -/
def octOf {α : Type} (f : Fin 8 → α) : Oct α := ⟨f 0, f 1, f 2, f 3, f 4, f 5, f 6, f 7⟩

/-- Value i. -/
def octGet {α : Type} (o : Oct α) : Fin 8 → α
  | 0 => o.a0
  | 1 => o.a1
  | 2 => o.a2
  | 3 => o.a3
  | 4 => o.a4
  | 5 => o.a5
  | 6 => o.a6
  | 7 => o.a7

/-- A function applied to each value. -/
def octMap {α β : Type} (f : α → β) (o : Oct α) : Oct β :=
  ⟨f o.a0, f o.a1, f o.a2, f o.a3, f o.a4, f o.a5, f o.a6, f o.a7⟩

/-- The values in order. -/
def octList {α : Type} (o : Oct α) : List α := [o.a0, o.a1, o.a2, o.a3, o.a4, o.a5, o.a6, o.a7]

/-- Every value meets the test. -/
def octAll {α : Type} (p : α → Bool) (o : Oct α) : Bool :=
  p o.a0 && p o.a1 && p o.a2 && p o.a3 && p o.a4 && p o.a5 && p o.a6 && p o.a7

/-- The block with rows and columns exchanged. -/
def transpose {α : Type} (b : Block α) : Block α := octOf fun x => octOf fun y => octGet (octGet b y) x

/-- A function applied to each value of a block. -/
def blockMap {α β : Type} (f : α → β) (b : Block α) : Block β := octMap (octMap f) b

/-- Every value of a block meets the test. -/
def blockAll {α : Type} (p : α → Bool) (b : Block α) : Bool := octAll (octAll p) b

/-- The value at row y, column x. -/
def blockGet {α : Type} (b : Block α) (y x : Fin 8) : α := octGet (octGet b y) x

/-- The rows of a block of bytes as lists. -/
def blockRows {α : Type} (b : Block α) : List (List α) := (octList b).map octList

/-- A 1-D transform applied to each column (R181). -/
def columnPass {α : Type} (kernel : Oct α → Oct α) (b : Block α) : Block α := transpose (octMap kernel (transpose b))

/-- A 1-D transform applied to each row (R181). -/
def rowPass {α : Type} (kernel : Oct α → Oct α) (b : Block α) : Block α := octMap kernel b

/-- The first pass under an order of passes (R181). -/
def firstPass {α : Type} (order : PassOrder) (kernel : Oct α → Oct α) (b : Block α) : Block α :=
  match order with
  | .columnsFirst => columnPass kernel b
  | .rowsFirst => rowPass kernel b

/-- The second pass under an order of passes (R181). -/
def secondPass {α : Type} (order : PassOrder) (kernel : Oct α → Oct α) (b : Block α) : Block α :=
  match order with
  | .columnsFirst => rowPass kernel b
  | .rowsFirst => columnPass kernel b

/-- The entry of the coefficient file at row u (vertical frequency) and column v: COEF[8u + v] (R180). -/
def coefAt (s : State) (u v : Fin 8) : Word := s.coef.get ⟨8 * u.val + v.val, by omega⟩

/-- The coefficient file as a block, each entry read by `f` (R180). -/
def coefBlock {α : Type} (f : Word → α) (s : State) : Block α := octOf fun u => octOf fun v => f (coefAt s u v)

/-! ## Profile G -/

/-- A(x) = x + (x >> 2) (R182). -/
def gA (x : Int) : Int := x + asr x 2
/-- B(x) = x >> 1 (R182). -/
def gB (x : Int) : Int := asr x 1
/-- C(x) = x - (x >> 2) - (x >> 4) (R182). -/
def gC (x : Int) : Int := x - asr x 2 - asr x 4
/-- D(x) = x + (x >> 2) - (x >> 4) (R182). -/
def gD (x : Int) : Int := x + asr x 2 - asr x 4
/-- E(x) = x >> 2 (R182). -/
def gE (x : Int) : Int := asr x 2

/-- G_1D: the profile G 1-D kernel, the default of G_KERNEL (R182). -/
def gKernel (b : Oct Int) : Oct Int :=
  let t00 := b.a3 + b.a5
  let t01 := b.a3 - b.a5
  let t02 := gA b.a2 + gB b.a6
  let t03 := gB b.a2 - gA b.a6
  let t0 := (b.a0 + b.a4) + t02
  let t1 := (b.a0 + b.a4) - t02
  let t2 := b.a0 - b.a4
  let t3 := b.a1 + t00
  let t4 := b.a1 - t00
  let t5 := t01 + b.a7
  let t6 := t01 - b.a7
  let t7 := t4 + gC t6
  let t8 := gC t4 - t6
  let t9 := gD t3 + gE t5
  let t10 := gE t3 - gD t5
  let t11 := t2 + t03
  let t12 := t2 - t03
  ⟨t0 + t9, t11 + t7, t12 + t8, t1 + t10, t1 - t10, t12 - t8, t11 - t7, t0 - t9⟩

/-- The end of G_2D after its first pass: the range check of the intermediate, the second pass, the shift by 6 (R183). -/
def gFinish (order : PassOrder) (w : Block Int) : Except Raise (Block Int) :=
  if blockAll fits16 w then .ok (blockMap (fun v => asr v 6) (secondPass order gKernel w)) else .error ⟨.range, 2⟩

/-- G_2D (R183): the integers r[y][x], or E_RANGE(1) or E_RANGE(2). -/
def gTransform (order : PassOrder) (c : Block Int) : Except Raise (Block Int) :=
  if blockAll fits16 c then gFinish order (firstPass order gKernel c) else .error ⟨.range, 1⟩

/-! ## Profile F -/

/-- K1, K2, K3, K4, the bias 512.5 and the output offset 512.0 (R185, R186, R187). -/
def fK1 : F32 := f32OfBits 0x3FB504F3
def fK2 : F32 := f32OfBits 0x3FEC835E
def fK3 : F32 := f32OfBits 0x40273D75
def fK4 : F32 := f32OfBits 0x3F8A8BD4
def fBias : F32 := f32OfBits 0x44002000
def fOffset : F32 := f32OfBits 0x44000000

/-- F_1D: the profile F 1-D kernel, the default of F_KERNEL; every operation rounds (R185). -/
def fKernel (b : Oct F32) : Oct F32 :=
  let t00 := f32Add b.a2 b.a6
  let t01 := f32Sub (f32Mul (f32Sub b.a2 b.a6) fK1) t00
  let t02 := f32Add b.a0 b.a4
  let t03 := f32Sub b.a0 b.a4
  let t04 := f32Add b.a3 b.a5
  let t05 := f32Sub b.a3 b.a5
  let t06 := f32Add b.a1 b.a7
  let t07 := f32Sub b.a1 b.a7
  let t08 := f32Add t02 t00
  let t09 := f32Sub t02 t00
  let t10 := f32Add t03 t01
  let t11 := f32Sub t03 t01
  let t12 := f32Add t06 t04
  let t13 := f32Mul (f32Sub t06 t04) fK1
  let t14 := f32Mul (f32Sub t07 t05) fK2
  let t15 := f32Sub (f32Add (f32Mul t05 fK3) t14) t12
  let t16 := f32Sub t13 t15
  let t17 := f32Add (f32Sub (f32Mul t07 fK4) t14) t16
  ⟨f32Add t08 t12, f32Add t10 t15, f32Add t11 t16, f32Sub t09 t17,
   f32Add t09 t17, f32Sub t11 t16, f32Sub t10 t15, f32Sub t08 t12⟩

/-- The bias added to c[0][0] before the first pass: F_BIAS_POINT (R186, 90_conflicts.md C4). -/
def biased (c : Block F32) : Block F32 := { c with a0 := { c.a0 with a0 := f32Add c.a0.a0 fBias } }

/-- F_2D (R186): the binary32 values s[y][x]. -/
def fTransform (order : PassOrder) (c : Block F32) : Block F32 :=
  secondPass order fKernel (firstPass order fKernel (biased c))

/-- The values e[y][x] = s[y][x] -f 512.0, or E_RANGE(3) if one is a NaN or an infinity (R187). -/
def fResidual (sv : Block F32) : Except Raise (Block F32) :=
  let e := blockMap (fun v => f32Sub v fOffset) sv
  if blockAll f32Finite e then .ok e else .error ⟨.range, 3⟩

/-- The conversion of an Add residual (R187). -/
def addConvert : AddConversion → F32 → Int
  | .floor => f32Floor
  | .trunc => f32Trunc

/-! ## Pixels -/

/-- Put and Add (R188). -/
inductive StoreMode where
  | put
  | add
  deriving DecidableEq, Repr

/-- The integers the transform of the coefficient file gives, before the destination and the clip: r[y][x] of profile G
(R183), the converted e[y][x] of profile F (R187). -/
def residualWith (order : PassOrder) (cvt : AddConversion) (mode : StoreMode) (s : State) : Except Raise (Block Int) :=
  match s.profile with
  | .g => gTransform order (coefBlock signed s)
  | .f =>
    match fResidual (fTransform order (coefBlock f32OfBits s)) with
    | .error e => .error e
    | .ok e => .ok (blockMap (match mode with | .put => f32Floor | .add => addConvert cvt) e)

/-- The residual under the unit's parameters. -/
def residual (mode : StoreMode) (s : State) : Except Raise (Block Int) :=
  residualWith (idctOrder s.profile) fAddCvt mode s

/-- The 64 destination samples d[y][x] of the block at (x0, y0) (R192). -/
def destSamples (s : State) (d : PlaneDesc) (x0 y0 : Nat) : Block Int :=
  octOf fun y => octOf fun x => sample s d (x0 + x.val) (y0 + y.val)

/-- The pixels: Put clips the residual, Add clips the destination plus the residual (R184, R187). -/
def pixels (mode : StoreMode) (s : State) (d : PlaneDesc) (x0 y0 : Nat) (r : Block Int) : Block Byte :=
  match mode with
  | .put => blockMap clipUint8 r
  | .add =>
    octOf fun y => octOf fun x => clipUint8 (blockGet (destSamples s d x0 y0) y x + blockGet r y x)

/-- A transform command: the destination check, the transform, the 64 samples (R191, R192). -/
def idctCommand (mode : StoreMode) (p : Plane) (repos : Bool) (blk : BitVec 4) (s : State) : State :=
  let d := s.plane s.outBank p
  let xy := destPos s repos blk
  if blockInside d xy.1 xy.2 8 then
    match residual mode s with
    | .error e => endCommand (some e) s
    | .ok r => endCommand none (storeBlock s d xy.1 xy.2 (blockRows (pixels mode s d xy.1 xy.2 r)))
  else endCommand (some ⟨.dst, 0⟩) s

/-- IDCT.PUT P, blk=B (R191). -/
def execIdctPut (p : Plane) (repos : Bool) (blk : BitVec 4) (s : State) : Host.Outcome State Fault Refusal :=
  .next (idctCommand .put p repos blk s)

/-- IDCT.ADD P, blk=B (R192). -/
def execIdctAdd (p : Plane) (repos : Bool) (blk : BitVec 4) (s : State) : Host.Outcome State Fault Refusal :=
  .next (idctCommand .add p repos blk s)

end Sys2Proof.Machine
end

