-- ==== Sys2Proof/Machine/MotionComp.lean ====
section
/-! DEFINITION. The motion compensation commands (43_motion_comp.md R210 to R219). The filter taps are the spec's
defaults of LUMA_FILTER and CHROMA_WEIGHTS, taken there from general knowledge (log 15: PRESUMED). -/

namespace Sys2Proof.Machine

/-! ## Filters -/

/-- LF over s(-2), s(-1), s(0), s(1), s(2), s(3): the luma half-sample filter (R212). -/
def lumaFilter (m2 m1 p0 p1 p2 p3 : Int) : Int :=
  ((clipUint8 (asr (asr ((p0 + p1) * 19) 1 - (m1 + p2) * 2 + asr (m2 + p3) 1 + 8) 4)).toNat : Int)

/-- LF over a sequence around position 0. -/
def lumaFilterAt (f : Int → Int) : Int := lumaFilter (f (-2)) (f (-1)) (f 0) (f 1) (f 2) (f 3)

/-- The chroma weights (W0, W1) of a phase (R213). -/
def chromaWeights (phase : Int) : Int × Int :=
  if phase = 1 then (6, 2) else if phase = 2 then (4, 4) else (2, 6)

/-- CF(P, a, b): the chroma quarter-sample filter (R213). -/
def chromaFilter (phase a b : Int) : Int :=
  asr ((chromaWeights phase).1 * a + (chromaWeights phase).2 * b + 4) 3

/-! ## Predictions -/

/-- R(x, y) = SAMPLE(REF, PLANE, x, y) at coordinates the window check found inside (R214, R216). -/
def refSample (s : State) (d : PlaneDesc) (x y : Int) : Int := sample s d x.toNat y.toNat

/-- T(i, m): the intermediate buffer of the luma filter, clipped to 8 bits (R214, 10_state.md R43). -/
def lumaIntermediate (r : Int → Int → Int) (ix iy : Int) (i m : Int) : Int :=
  lumaFilterAt fun k => r (ix + i + k) (iy + m)

/-- PRED_L(i, j) (R214). -/
def lumaPred (r : Int → Int → Int) (h v : AxisPos) (i j : Int) : Int :=
  if h.phase = 0 then
    if v.phase = 0 then r (h.pos + i) (v.pos + j)
    else lumaFilterAt fun k => r (h.pos + i) (v.pos + j + k)
  else
    if v.phase = 0 then lumaFilterAt fun k => r (h.pos + i + k) (v.pos + j)
    else lumaFilterAt fun k => lumaIntermediate r h.pos v.pos i (j + k)

/-- U(i, m): the intermediate buffer of the chroma filter (R215, 10_state.md R43). -/
def chromaIntermediate (r : Int → Int → Int) (h : AxisPos) (iy : Int) (i m : Int) : Int :=
  chromaFilter h.phase (r (h.pos + i) (iy + m)) (r (h.pos + i + 1) (iy + m))

/-- PRED_C(i, j) (R215). -/
def chromaPred (r : Int → Int → Int) (h v : AxisPos) (i j : Int) : Int :=
  if h.phase = 0 then
    if v.phase = 0 then r (h.pos + i) (v.pos + j)
    else chromaFilter v.phase (r (h.pos + i) (v.pos + j)) (r (h.pos + i) (v.pos + j + 1))
  else
    if v.phase = 0 then chromaFilter h.phase (r (h.pos + i) (v.pos + j)) (r (h.pos + i + 1) (v.pos + j))
    else chromaFilter v.phase (chromaIntermediate r h v.pos i j) (chromaIntermediate r h v.pos i (j + 1))

/-- The predicted block as rows of bytes. -/
def predRows (n : Nat) (pred : Int → Int → Int) : List (List Byte) :=
  (List.range n).map fun j => (List.range n).map fun i => BitVec.ofInt 8 (pred i j)

/-! ## Commands -/

/-- A motion compensation command with block size `n` and the prediction and read set of its filter: the reference
check, the destination check, the window test, the prediction, the samples (R216, R217, R218). -/
def mcCommand (n f : Nat) (readSet : AxisPos → Int × Int)
    (pred : (Int → Int → Int) → AxisPos → AxisPos → Int → Int → Int) (p : Plane) (s : State) : State :=
  let out := s.plane s.outBank p
  let ref := s.plane s.refBank p
  let x := unsigned s.op0
  let y := unsigned s.op1
  let h := axisPos s.op0 s.op2 f
  let v := axisPos s.op1 s.op3 f
  if s.refValid then
    if blockInside out x y n then
      if windowInside ref (readSet h) (readSet v) then
        endCommand none (storeBlock s out x y (predRows n (pred (refSample s ref) h v)))
      else endCommand none s
    else endCommand (some ⟨.dst, 0⟩) s
  else endCommand (some ⟨.noref, 0⟩) s

/-- MC_L P (R217): 16x16, half-sample vectors. -/
def execMcL (p : Plane) (s : State) : Host.Outcome State Fault Refusal :=
  .next (mcCommand 16 1 lumaReadSet lumaPred p s)

/-- MC_C P (R218): 8x8, quarter-sample vectors. -/
def execMcC (p : Plane) (s : State) : Host.Outcome State Fault Refusal :=
  .next (mcCommand 8 2 chromaReadSet chromaPred p s)

end Sys2Proof.Machine
end

