-- ==== Sys2Proof/Machine/System.lean ====
section
/-! DEFINITION. The system commands (44_system.md R240, R241). -/

namespace Sys2Proof.Machine

/-- NOP (R240): no effect beyond its completion. -/
def execNop (s : State) : Host.Outcome State Fault Refusal := .next (endCommand none s)

/-- CONFIG with OUTSEL toggled and REF_VALID set (R241, 10_state.md R23). -/
def swappedConfig (c : Word) : Word := (c ^^^ 0x4) ||| 0x2

/-- SWAP_REF (R241): no sample is copied. -/
def execSwapRef (s : State) : Host.Outcome State Fault Refusal :=
  .next (endCommand none { s with config := swappedConfig s.config })

end Sys2Proof.Machine
end

