-- ==== Sys2Proof/Machine/Dispatch.lean ====
section
/-! DEFINITION. One arm per command of the opcode map. -/

namespace Sys2Proof.Machine

def exec (i : Instr) (s : State) : Host.Outcome State Fault Refusal :=
  match i with
  | .nop => Sys2Proof.Machine.execNop s
  | .brRead n => Sys2Proof.Machine.execBrRead n s
  | .brSkip => Sys2Proof.Machine.execBrSkip s
  | .brAlign => Sys2Proof.Machine.execBrAlign s
  | .brSign => Sys2Proof.Machine.execBrSign s
  | .brRealign => Sys2Proof.Machine.execBrRealign s
  | .vlcDec tid => Sys2Proof.Machine.execVlcDec tid s
  | .qset => Sys2Proof.Machine.execQset s
  | .acDecode c k => Sys2Proof.Machine.execAcDecode c k s
  | .coefClear => Sys2Proof.Machine.execCoefClear s
  | .dcDequant => Sys2Proof.Machine.execDcDequant s
  | .dcInsert => Sys2Proof.Machine.execDcInsert s
  | .dcSeed k => Sys2Proof.Machine.execDcSeed k s
  | .dcClamp k => Sys2Proof.Machine.execDcClamp k s
  | .dcMpred k => Sys2Proof.Machine.execDcMpred k s
  | .dcMpred2 k => Sys2Proof.Machine.execDcMpred2 k s
  | .midPred => Sys2Proof.Machine.execMidPred s
  | .idctPut p repos blk => Sys2Proof.Machine.execIdctPut p repos blk s
  | .idctAdd p repos blk => Sys2Proof.Machine.execIdctAdd p repos blk s
  | .mcL p => Sys2Proof.Machine.execMcL p s
  | .mcC p => Sys2Proof.Machine.execMcC p s
  | .swapRef => Sys2Proof.Machine.execSwapRef s

end Sys2Proof.Machine
end

