-- ==== Sys2Proof/Machine/HostPort.lean ====
section
/-! DEFINITION. What the host does to the unit: the register window (10_state.md R20 to R45), accesses to bus memory
(20_memory.md R71, R72), and reset (70_reset_and_hazards.md R281, R282). What a pending command would leave is an argument
here (`after`), supplied by Machine/Step.lean. -/

namespace Sys2Proof.Machine

/-! ## The register map -/

/-- The registers of the window (10_state.md R20). -/
inductive Reg where
  | id
  | version
  | config
  | status
  | irqEn
  | ctrl
  | cmd
  | cmdCount
  | op0
  | op1
  | op2
  | op3
  | res0
  | qidx
  | errcmd
  | errinfo
  | bsBase
  | bsLen
  | bsPosLo
  | bsPosHi
  | plBase (bank : Bool) (p : Plane)
  | plStride (bank : Bool) (p : Plane)
  | plDim (bank : Bool) (p : Plane)
  | coef (i : Fin 64)
  | reserved
  deriving DecidableEq, Repr

/-- The plane with a number below 4 (10_state.md R20). -/
def planeOfNat (n : Nat) : Plane :=
  if n = 0 then .y else if n = 1 then .u else if n = 2 then .v else .a

/-- The register of a descriptor offset: 0x40*b + 0x10*p + 0x0, 0x4, 0x8; the fourth word is reserved (R20, R45). -/
def descReg (o : Nat) : Reg :=
  let bank := decide (o / 0x40 = 1)
  let p := planeOfNat (o % 0x40 / 0x10)
  if o % 0x10 = 0x0 then .plBase bank p
  else if o % 0x10 = 0x4 then .plStride bank p
  else if o % 0x10 = 0x8 then .plDim bank p
  else .reserved

/-- The register at an aligned window offset (R20); every other offset is reserved (R45). -/
def regAt (o : Nat) : Reg :=
  if o = 0x000 then .id
  else if o = 0x004 then .version
  else if o = 0x008 then .config
  else if o = 0x00C then .status
  else if o = 0x010 then .irqEn
  else if o = 0x014 then .ctrl
  else if o = 0x018 then .cmd
  else if o = 0x01C then .cmdCount
  else if o = 0x020 then .op0
  else if o = 0x024 then .op1
  else if o = 0x028 then .op2
  else if o = 0x02C then .op3
  else if o = 0x030 then .res0
  else if o = 0x034 then .qidx
  else if o = 0x038 then .errcmd
  else if o = 0x03C then .errinfo
  else if o = 0x040 then .bsBase
  else if o = 0x044 then .bsLen
  else if o = 0x048 then .bsPosLo
  else if o = 0x04C then .bsPosHi
  else if 0x100 ≤ o ∧ o < 0x180 then descReg (o - 0x100)
  else if 0x200 ≤ o ∧ o < 0x300 then .coef (Fin.ofNat 64 ((o - 0x200) / 4))
  else .reserved

/-- The offset the map gives a register, or `none` for the reserved offsets (R20). -/
def regOffset : Reg → Option Nat
  | .id => some 0x000
  | .version => some 0x004
  | .config => some 0x008
  | .status => some 0x00C
  | .irqEn => some 0x010
  | .ctrl => some 0x014
  | .cmd => some 0x018
  | .cmdCount => some 0x01C
  | .op0 => some 0x020
  | .op1 => some 0x024
  | .op2 => some 0x028
  | .op3 => some 0x02C
  | .res0 => some 0x030
  | .qidx => some 0x034
  | .errcmd => some 0x038
  | .errinfo => some 0x03C
  | .bsBase => some 0x040
  | .bsLen => some 0x044
  | .bsPosLo => some 0x048
  | .bsPosHi => some 0x04C
  | .plBase b p => some (0x100 + 0x40 * b.toNat + 0x10 * (planeNum p).val)
  | .plStride b p => some (0x100 + 0x40 * b.toNat + 0x10 * (planeNum p).val + 0x4)
  | .plDim b p => some (0x100 + 0x40 * b.toNat + 0x10 * (planeNum p).val + 0x8)
  | .coef i => some (0x200 + 4 * i.val)
  | .reserved => none

/-- What a register reads as (R20 to R45). CTRL and the reserved offsets read 0 (R26, R45). -/
def regRead (s : State) : Reg → Word
  | .id => idWord
  | .version => versionWord
  | .config => s.config
  | .status => statusWord s
  | .irqEn => s.irqEn
  | .ctrl => 0
  | .cmd => s.cmd
  | .cmdCount => s.cmdCount
  | .op0 => s.op0
  | .op1 => s.op1
  | .op2 => s.op2
  | .op3 => s.op3
  | .res0 => s.res0
  | .qidx => s.qidx
  | .errcmd => s.errcmd
  | .errinfo => s.errinfo
  | .bsBase => s.bsBase
  | .bsLen => s.bsLen
  | .bsPosLo => s.bsPos.setWidth 32
  | .bsPosHi => s.bsPos.extractLsb' 32 32
  | .plBase b p => (s.plane b p).base
  | .plStride b p => (s.plane b p).stride
  | .plDim b p => (s.plane b p).dim
  | .coef i => s.coef.get i
  | .reserved => 0

/-- The fields of CONFIG and of IRQ_EN that a write reaches: bits 2:0 (R23, R25). -/
def fieldMask : Word := 0x7

/-- A new descriptor for plane p of bank b. -/
def setPlane (s : State) (bank : Bool) (p : Plane) (d : PlaneDesc) : State :=
  { s with planes := s.planes.set (planeIndex bank p) d }

/-- Reset of every register and of the coefficient file (70_reset_and_hazards.md R280, R281). Bus memory, the tables and
what is the host's stay. -/
def softReset (s : State) : State :=
  { State.reset with rom := s.rom, mem := s.mem, host := s.host, rdata := s.rdata, draws := s.draws }

/-- A write of CTRL while idle: SRESET is bit 0 (10_state.md R26, 70_reset_and_hazards.md R281). -/
def writeCtrl (v : Word) (s : State) : State := if v.getLsbD 0 then softReset s else s

/-- A write of CMD while idle: accepted, or discarded while ERRCODE is nonzero (10_state.md R27, 60_exceptions.md R254). -/
def writeCmd (v : Word) (s : State) : State :=
  if s.errcode = 0 then { s with cmd := v, busy := true, draws := s.draws + 1 } else s

/-- An aligned 32-bit write while idle (10_state.md R20 to R45). Read-only and reserved registers ignore it. -/
def regWrite (s : State) (v : Word) : Reg → State
  | .id => s
  | .version => s
  | .config => { s with config := v &&& fieldMask }
  | .status => writeStatus v s
  | .irqEn => { s with irqEn := v &&& fieldMask }
  | .ctrl => writeCtrl v s
  | .cmd => writeCmd v s
  | .cmdCount => s
  | .op0 => { s with op0 := v }
  | .op1 => { s with op1 := v }
  | .op2 => { s with op2 := v }
  | .op3 => { s with op3 := v }
  | .res0 => s
  | .qidx => s
  | .errcmd => s
  | .errinfo => s
  | .bsBase => { s with bsBase := v }
  | .bsLen => { s with bsLen := v }
  | .bsPosLo => { s with bsPos := s.bsPos.extractLsb' 32 32 ++ v }
  | .bsPosHi => { s with bsPos := v ++ s.bsPos.setWidth 32 }
  | .plBase b p => setPlane s b p { s.plane b p with base := v }
  | .plStride b p => setPlane s b p { s.plane b p with stride := v }
  | .plDim b p => setPlane s b p { s.plane b p with dim := v }
  | .coef i => { s with coef := s.coef.set i v }
  | .reserved => s

/-- A soft reset while a command is pending: at once, with the command completed (its memory effect kept) or discarded,
as the implementation chooses (70_reset_and_hazards.md R282; log 11). `after` is the state its completion would leave. -/
def softResetBusy (s after : State) : State :=
  softReset { s with mem := if Config.resetCompletes s.draws then after.mem else s.mem, draws := s.draws + 1 }

/-- An aligned 32-bit write while a command is pending (10_state.md R44(a), (b)). -/
def regWriteBusy (s after : State) (v : Word) : Reg → State
  | .status => writeStatus v s
  | .ctrl => if v.getLsbD 0 then softResetBusy s after else s
  | _ => { s with wwb := true }

/-! ## Host actions -/

/-- The access is an aligned 32-bit word access (20_memory.md R65). -/
def properAccess (off : BitVec 12) (width : AccessWidth) : Bool := width == .word && off.toNat % 4 == 0

/-- A read of the window: the register, or any value where the access is not an aligned 32-bit one
(20_memory.md R65, R67; log 13). -/
def windowRead (s : State) (off : BitVec 12) (width : AccessWidth) : State :=
  if properAccess off width then { s with rdata := regRead s (regAt off.toNat) }
  else { s with rdata := Config.oddRead s.draws, draws := s.draws + 1 }

/-- A host write of bus memory (20_memory.md R71). -/
def hostMemWrite (s : State) (a : Word) (b : Byte) : State := { s with mem := memSet s.mem a.toNat b }

/-- A host write of bus memory while a command is pending: the byte it replaces stays a byte the command may compute
from (70_reset_and_hazards.md R286; log 12). -/
def hostMemWriteBusy (s : State) (a : Word) (b : Byte) : State :=
  { hostMemWrite s a b with raced := (a.toNat, memGet s.mem a.toNat) :: s.raced }

/-- A host read of bus memory (20_memory.md R71). -/
def hostMemRead (s : State) (a : Word) : State := { s with rdata := (memGet s.mem a.toNat).setWidth 32 }

/-- A host read of bus memory while a command is pending: old or new where the command writes the byte (R286; log 12).
DESIGN CHOICE: the new value is the one the command would write if it completed at that moment, with the race draw of that
moment (`after`), and `draws` then advances; where the host has also raced a byte the command reads, the command may
finally write another value. -/
def hostMemReadBusy (s after : State) (a : Word) : State :=
  let old := memGet s.mem a.toNat
  let new := memGet after.mem a.toNat
  let b := if old = new then old else if Config.raceReadsNew s.draws then new else old
  { s with rdata := b.setWidth 32, draws := s.draws + 1 }

/-- An action of the host while the engine is idle. `wait` reads STATUS once (30_encoding.md R91; log 21). -/
def hostIdle (act : HostAction) (s : State) : State :=
  match act with
  | .write off width v => if properAccess off width then regWrite s v (regAt off.toNat) else s
  | .read off width => windowRead s off width
  | .memWrite a b => hostMemWrite s a b
  | .memRead a => hostMemRead s a
  | .wait => { s with rdata := statusWord s }

/-- An action of the host while a command is pending; a `wait` lets the command complete first (Machine/Step.lean). -/
def hostBusy (act : HostAction) (after : State) (s : State) : State :=
  match act with
  | .write off width v => if properAccess off width then regWriteBusy s after v (regAt off.toNat) else s
  | .read off width => windowRead s off width
  | .memWrite a b => hostMemWriteBusy s a b
  | .memRead a => hostMemReadBusy s after a
  | .wait => s

/-! ## The window in the host's address space -/

/-- B2BDU_BASE: an OPEN, 4 KiB aligned host address (20_memory.md R68; log 18). -/
def windowBase : Nat := 4096 * Config.windowPage

/-- The host address of a window offset (R68). -/
def windowAddress (off : BitVec 12) : Nat := windowBase + off.toNat

/-- The window offset of a host address, if the address is in the window (R68). -/
def windowOffset (a : Nat) : Option (BitVec 12) :=
  if windowBase ≤ a ∧ a < windowBase + 4096 then some (BitVec.ofNat 12 (a - windowBase)) else none

/-! ## The engine's turn -/

/-- The engine executes the pending word: its command, or E_ILLEGAL for an illegal word (30_encoding.md R89). -/
def runWord (w : Word) (s : State) : Host.Outcome State Fault Refusal :=
  match decodeWord w with
  | .ok i => exec i s
  | .error _ => .next (raiseIllegal s)

/-- The state the pending command leaves at its completion, used where the host meets it before that. -/
def afterCommand (s : State) : State :=
  match runWord (fetch s) s with
  | .next t => t
  | .fault _ => s
  | .refused _ => s

/-- The next action in the queue lets the pending command complete first: there is none, or it is a `wait` (log 1). -/
def engineTurn (acts : List HostAction) : Bool :=
  match acts with
  | [] => true
  | .wait :: _ => true
  | _ :: _ => false

/-- The host's next action, taken from the queue; nothing happens with an empty queue (log 2). -/
def hostTurn (s : State) : State :=
  match s.host with
  | [] => s
  | act :: rest =>
    if s.busy then hostBusy act (afterCommand s) { s with host := rest } else hostIdle act { s with host := rest }

/-- One step: the engine completes the pending command when it is its turn, else the host acts (20_memory.md R70,
10_state.md R44; log 1). -/
def stepOnce (s : State) : Host.Outcome State Fault Refusal :=
  if s.busy && engineTurn s.host then runWord (fetch s) s else .next (hostTurn s)

/-- The state with a word as the pending command and the engine's turn next (log 2). -/
def withPending (s : State) (w : Word) : State := { s with cmd := w, busy := true, errcode := 0, host := [] }

end Sys2Proof.Machine
end

