-- ==== Sys2Proof/Machine/Step.lean ====
section
/-! DEFINITION. One step of the machine, and the host's fixed name that places a command as the one the next step runs. -/

namespace Sys2Proof.Machine

/-- One step (Machine/HostPort.lean `stepOnce`). -/
def step (s : State) : Host.Outcome State Fault Refusal := stepOnce s

/-- The state whose next step runs the command word of a table row (log 2). -/
def State.withFetchWord (s : State) (nbits w : Nat) : State := withPending s (tableWord nbits w)

end Sys2Proof.Machine
end

