-- ==== Sys2Proof/Safety.lean ====
section
/-! DEFINITION. What statements mean by a good state of the unit: the properties that the rules promise of every state
the machine reaches. -/

namespace Sys2Proof.Machine

/-- ERRCODE is a code of the table, 0x00 to 0x06 (60_exceptions.md R250). -/
def errcodeKnown (s : State) : Bool := decide (s.errcode.toNat ≤ 6)

/-- ERRINFO is one of the values the table gives for the error that ERRCODE reports (R250, R262). -/
def errinfoFits (s : State) : Bool :=
  if s.errcode = errCode .illegal ∨ s.errcode = errCode .noref ∨ s.errcode = errCode .dst then s.errinfo == 0
  else if s.errcode = errCode .qrange then decide (16 ≤ s.errinfo.toNat)
  else if s.errcode = errCode .range then decide (s.errinfo.toNat ≤ 3)
  else true

/-- The reserved bits of CONFIG and IRQ_EN read 0 (10_state.md R23, R25). -/
def reservedZero (s : State) : Bool := s.config &&& ~~~fieldMask == 0 && s.irqEn &&& ~~~fieldMask == 0

/-- A command is pending only while no error is (10_state.md R27, 60_exceptions.md R254, R262). -/
def pendingWithoutError (s : State) : Bool := !s.busy || s.errcode == 0

/-- QIDX is an index of profile F or of profile G (10_state.md R31). -/
def qidxInRange (s : State) : Bool := decide (unsigned s.qidx < 37)

/-- Outside a pending command no byte is raced (log 12). -/
def racedOnlyWhileBusy (s : State) : Bool := s.busy || s.raced.isEmpty

/-- The invariant of the machine. -/
def State.good (s : State) : Bool :=
  Memory.wf s.mem && reservedZero s && errcodeKnown s && errinfoFits s && pendingWithoutError s && qidxInRange s
    && racedOnlyWhileBusy s && s.rom.ok

end Sys2Proof.Machine
end

