-- ==== Sys2Proof/Certificates/Slice0/Obligations.lean ====
section
/-! DEFINITION. The statements for the provers. Each docstring names the rule of spec/ it formalises. The first
definitions spell out, field by field, the three ends a command can have; a record update leaves every other field of the
state as it was, bus memory included. -/

namespace Sys2Proof.Stated

open Sys2Proof.Machine

/-- Successful completion (60_exceptions.md R257; BUSY, 10_state.md R44). `raced` is the model's own (log 12). -/
def completed (s : State) : State :=
  { s with done := true, cmdCount := s.cmdCount + 1, busy := false, raced := [] }

/-- The end with an error of the given code and information value (60_exceptions.md R251). -/
def errored (code : Byte) (info : Word) (s : State) : State :=
  { s with errcode := code, errcmd := s.cmd, errinfo := info, busy := false, raced := [] }

/-- The overread warning of a bit-consuming command (40_bitreader_vlc.md R102). -/
def overreadNoted (s : State) : State :=
  { s with overread := s.overread || decide (s.bsPos.toNat > 8 * s.bsLen.toNat) }

/-- RES0 gets a value and the command completes. -/
def resultIs (v : Word) (s : State) : State := completed { s with res0 := v }

/-- A range of a DC value (41_coef_dequant.md R151). -/
def dcLow (k : CodingClass) : Int := if k = .intra then 0 else -1023

/-- The upper end of the range (R151). -/
def dcHigh (k : CodingClass) : Int := if k = .intra then 2047 else 1023

/-- The address is no sample of the n x n block at (x, y) of the plane. -/
def outsideBlock (d : PlaneDesc) (x y n : Nat) (a : Word) : Prop :=
  ∀ i j, i < n → j < n → a ≠ sampleAddr d (x + i) (y + j)

/-- The samples of the n x n block at (x, y) lie at different addresses. -/
def samplesDistinct (d : PlaneDesc) (x y n : Nat) : Prop :=
  ∀ i j k l, i < n → j < n → k < n → l < n → sampleAddr d (x + i) (y + j) = sampleAddr d (x + k) (y + l) → i = k ∧ j = l

/-- The engine's turn: a command is pending and the host waits or has nothing to do (log 1). -/
def enginePending (s : State) : Prop := s.busy = true ∧ (s.host = [] ∨ ∃ rest, s.host = .wait :: rest)

/-- The host's next action is an aligned 32-bit write of `v` at `off`. -/
def hostWrites (s : State) (off : BitVec 12) (v : Word) (rest : List HostAction) : Prop :=
  s.host = .write off .word v :: rest ∧ off.toNat % 4 = 0

/-! ### AC_DECODE, spelled out from R147 -/

/-- A code of the table is read (40_bitreader_vlc.md R109): the next bits are those of an entry. -/
def codeRead (s : State) (tid : BitVec 4) (pos : BitVec 64) (sym : BitVec 16) (pos' : BitVec 64) : Prop :=
  ∃ t e, vlcTable s.rom s.profile tid = some t ∧ e ∈ t ∧ peekBits s pos e.len = e.code ∧ sym = e.sym ∧
    pos' = pos + BitVec.ofNat 64 e.len

/-- No code can be read: the table is absent, or no entry matches (R109, 41_coef_dequant.md R147). -/
def codeFails (s : State) (tid : BitVec 4) (pos : BitVec 64) (e : Raise) : Prop :=
  (vlcTable s.rom s.profile tid = none ∧ e = ⟨.illegal, 0⟩) ∨
  (∃ t, vlcTable s.rom s.profile tid = some t ∧ (∀ x ∈ t, peekBits s pos x.len ≠ x.code) ∧ e = ⟨.vlc, pos.setWidth 32⟩)

/-- The value of a class (R144, R147): base and raw bits, and a sign bit (1 = negative) unless the magnitude is 0. -/
def valueRead (s : State) (pos : BitVec 64) (cls : BitVec 16) (v : Int) (pos' : BitVec 64) : Prop :=
  ∃ base n mag : Nat, acMag s.rom s.profile cls = (base, n) ∧ mag = base + peekBits s pos n ∧
    ((mag = 0 ∧ v = 0 ∧ pos' = pos + BitVec.ofNat 64 n) ∨
      (mag ≠ 0 ∧ v = (if bitAt s (pos + BitVec.ofNat 64 n).toNat then -(mag : Int) else (mag : Int)) ∧
        pos' = pos + BitVec.ofNat 64 (n + 1)))

/-- The run of a skip symbol (R145): 6 raw bits after the escape symbol, else the run of the table. -/
def runRead (s : State) (pos : BitVec 64) (sym : BitVec 16) (run : Nat) (pos' : BitVec 64) : Prop :=
  (sym = (romProf s.rom s.profile).skipEsc ∧ run = peekBits s pos 6 ∧ pos' = pos + 6) ∨
  (sym ≠ (romProf s.rom s.profile).skipEsc ∧ run = skipRun s.rom s.profile sym ∧ pos' = pos)

/-- What is written for the value v at natural position i (R146; G_AC_NORM at its default, log 14): in profile G the exact
product where 32 bits hold it, in profile F the pattern `deqF`, whose value AcDecodeCompletes states. -/
def dequantized (s : State) (c : PlaneClass) (k : CodingClass) (v : Int) (i : Fin 64) : Option Word :=
  if s.profile = .f then
    some (deqF v (quantStep s.rom.deqF s.qidx.toNat) ((quantMatrix s.rom.deqF c k).get i))
  else
    let product := v * quantStep s.rom.deqG s.qidx.toNat * (quantMatrix s.rom.deqG c k).get i
    if -(2 ^ 31) ≤ product ∧ product ≤ 2 ^ 31 - 1 then some (BitVec.ofInt 32 product) else none

/-- The natural position of a scan index (R141). -/
def scanPos (s : State) (c : PlaneClass) (idx : Nat) : Fin 64 := (scanTable s.rom s.profile c).get (Fin.ofNat 64 idx)

/-- One coded position (R147): a class, its value, and the entry written for a value that is not 0. -/
def coded (s : State) (c : PlaneClass) (k : CodingClass) (idx : Nat) (pos : BitVec 64) (f : Vector Word 64)
    (pos' : BitVec 64) (f' : Vector Word 64) : Prop :=
  ∃ cls p v, codeRead s 0 pos cls p ∧ valueRead s p cls v pos' ∧
    ((v = 0 ∧ f' = f) ∨
      (v ≠ 0 ∧ ∃ w, dequantized s c k v (scanPos s c idx) = some w ∧
        ∀ i : Fin 64, f'.get i = if i = scanPos s c idx then w else f.get i))

/-- The loop of AC_DECODE as R147 writes it, with VAL_TID, SKIP_TID and SKIP_AFTER_ZERO at their defaults (log 14): from a
scan index, cursor and file to the cursor and file it ends with and the error that ends it, if one does. -/
inductive AcWalk (s : State) (c : PlaneClass) (k : CodingClass) :
    Nat → BitVec 64 → Vector Word 64 → BitVec 64 → Vector Word 64 → Option Raise → Prop
  /-- The scan index is at or beyond 64. -/
  | past {idx : Nat} {pos : BitVec 64} {f : Vector Word 64} : 64 ≤ idx → AcWalk s c k idx pos f pos f none
  /-- No class can be read. -/
  | noClass {idx : Nat} {pos : BitVec 64} {f : Vector Word 64} {e : Raise} :
      idx < 64 → codeFails s 0 pos e → AcWalk s c k idx pos f pos f (some e)
  /-- The product is outside 32 bits: E_RANGE(0). -/
  | outOfRange {idx : Nat} {pos p pos' : BitVec 64} {f : Vector Word 64} {cls : BitVec 16} {v : Int} :
      idx < 64 → codeRead s 0 pos cls p → valueRead s p cls v pos' → v ≠ 0 →
      dequantized s c k v (scanPos s c idx) = none → AcWalk s c k idx pos f pos' f (some ⟨.range, 0⟩)
  /-- The last scan index: no skip follows. -/
  | last {pos pos' : BitVec 64} {f f' : Vector Word 64} : coded s c k 63 pos f pos' f' → AcWalk s c k 63 pos f pos' f' none
  /-- No skip can be read. -/
  | noSkip {idx : Nat} {pos pos' : BitVec 64} {f f' : Vector Word 64} {e : Raise} :
      idx < 63 → coded s c k idx pos f pos' f' → codeFails s 1 pos' e → AcWalk s c k idx pos f pos' f' (some e)
  /-- A skip, and on from the scan index after its run. -/
  | skip {idx run : Nat} {pos p1 p2 p3 pos' : BitVec 64} {f f1 f' : Vector Word 64} {sym : BitVec 16} {e : Option Raise} :
      idx < 63 → coded s c k idx pos f p1 f1 → codeRead s 1 p1 sym p2 → runRead s p2 sym run p3 →
      AcWalk s c k (idx + 1 + run) p3 f1 pos' f' e → AcWalk s c k idx pos f pos' f' e

/-! ### Motion compensation, spelled out from R212 to R216 -/

/-- The luma filter around a position (R212): weights 19/2, -2, 1/2 over 16, rounded and clipped. -/
def lumaTaps (a : Int → Int) : Int :=
  min (max (((a 0 + a 1) * 19 / 2 - 2 * (a (-1) + a 2) + (a (-2) + a 3) / 2 + 8) / 16) 0) 255

/-- The chroma filter of phase 1, 2 or 3 (R213): weights 8 - 2P and 2P over 8, rounded. -/
def chromaTaps (phase a b : Int) : Int := ((8 - 2 * phase) * a + 2 * phase * b + 4) / 8

/-- The first and the last column (row) of the read set of MC_L (R216). -/
def lumaSpan (a : AxisPos) : Int × Int := if a.phase = 1 then (a.pos - 2, a.pos + 18) else (a.pos, a.pos + 15)

/-- The first and the last column (row) of the read set of MC_C (R216). -/
def chromaSpan (a : AxisPos) : Int × Int := if a.phase = 0 then (a.pos, a.pos + 7) else (a.pos, a.pos + 8)

/-- The two references agree on the columns and rows of the spans. -/
def agreeOn (r q : Int → Int → Int) (cols rows : Int × Int) : Prop :=
  ∀ x y, cols.1 ≤ x → x ≤ cols.2 → rows.1 ≤ y → y ≤ rows.2 → r x y = q x y

/-- The columns and rows of the spans lie inside the plane. -/
def spansInside (d : PlaneDesc) (cols rows : Int × Int) : Prop :=
  0 ≤ cols.1 ∧ cols.2 < (planeWidth d : Int) ∧ 0 ≤ rows.1 ∧ rows.2 < (planeHeight d : Int)

/-! ### Writes of registers -/

/-- The registers that keep what is written, every bit of it (10_state.md R29, R34 to R41). -/
def plainReg (r : Reg) : Prop :=
  r = .op0 ∨ r = .op1 ∨ r = .op2 ∨ r = .op3 ∨ r = .bsBase ∨ r = .bsLen ∨ r = .bsPosLo ∨ r = .bsPosHi ∨
    (∃ b p, r = .plBase b p) ∨ (∃ b p, r = .plStride b p) ∨ (∃ b p, r = .plDim b p) ∨ (∃ i, r = .coef i)

/-- The registers that ignore a write: read-only and reserved ones (10_state.md R21, R22, R28, R30 to R33, R45). -/
def ignoresWrites (r : Reg) : Prop :=
  r = .id ∨ r = .version ∨ r = .cmdCount ∨ r = .res0 ∨ r = .qidx ∨ r = .errcmd ∨ r = .errinfo ∨ r = .reserved

/-- A register write reaches no memory, no table and nothing of the model's own but the queue. -/
def onlyRegisters (s t : State) (rest : List HostAction) : Prop :=
  t.mem = s.mem ∧ t.rom = s.rom ∧ t.host = rest ∧ t.rdata = s.rdata ∧ t.raced = s.raced ∧ t.draws = s.draws

end Sys2Proof.Stated

open Sys2Proof Sys2Proof.Machine Sys2Proof.Stated

/-! ## Encoding -/

/-- Decoding the word of a well-formed command gives the command (30_encoding.md R80 to R88). -/
def Obligations.DecodeOfEncode : Prop := ∀ i : Instr, i.wf = true → decodeWord (encode i) = .ok i

/-- A word that decodes is the word of a well-formed command: no bit of it is dropped (R80 to R89). -/
def Obligations.EncodeOfDecode : Prop :=
  ∀ (w : Word) (i : Instr), decodeWord w = .ok i → i.wf = true ∧ encode i = w

/-- Words written out from the map and the test vectors decode to their commands (R88, R91; 95_test_vectors.md L2). -/
def Obligations.SampleWordsDecode : Prop :=
  decodeWord 0x00000000 = .ok .nop ∧ decodeWord 0x00000D01 = .ok (.brRead 13) ∧
  decodeWord 0x00000308 = .ok (.vlcDec 3) ∧ decodeWord 0x00000311 = .ok (.acDecode .chroma .inter) ∧
  decodeWord 0x0000011A = .ok (.dcMpred .inter) ∧ decodeWord 0x00005820 = .ok (.idctPut .y true 5) ∧
  decodeWord 0x00000520 = .ok (.idctAdd .u false 0) ∧ decodeWord 0x00000129 = .ok (.mcC .u) ∧
  decodeWord 0x00000030 = .ok .swapRef

/-- An illegal word: no row's mask and match fit it, or it is BR_READ with N above 32 (R89). When the engine has its
turn is the model's choice of interleaving (log 1). -/
def Obligations.IllegalWordRaisesIllegal : Prop :=
  ∀ s : State, enginePending s →
    ((∀ r ∈ opcodeRows, s.cmd &&& r.mask ≠ r.matchBits) ∨
      (s.cmd &&& 0xFFFFC0FF = 0x00000001 ∧ (s.cmd.extractLsb' 8 6).toNat > 32)) →
    step s = .next (errored 0x01 0 s)

/-! ## The step -/

/-- When the engine has its turn and the pending word decodes to a command, the step is that command's meaning and
nothing else (10_state.md R27, R44). When the engine has its turn is the model's choice of interleaving (log 1). -/
def Obligations.StepRunsDecodedCommand : Prop :=
  ∀ (s : State) (i : Instr), enginePending s → decodeWord s.cmd = .ok i → step s = exec i s

/-- Writing a command's word into CMD while idle without an error, then waiting, runs the command (10_state.md R27;
30_encoding.md R91). The queue and the counter of free choices are the model's own (logs 1 and 17). -/
def Obligations.CommandThenWaitRunsIt : Prop :=
  ∀ (s : State) (i : Instr) (rest : List HostAction), s.busy = false → s.errcode = 0 → i.wf = true →
    s.host = .write 0x018 .word (encode i) :: .wait :: rest →
    ∃ s1 : State, step s = .next s1 ∧
      s1 = { s with cmd := encode i, busy := true, draws := s.draws + 1, host := .wait :: rest } ∧ step s1 = exec i s1

/-- Every step answers a next state: the unit never stops (60_exceptions.md R256, 20_memory.md R61). -/
def Obligations.EveryStepAnswersNext : Prop := ∀ s : State, ∃ t, step s = .next t

/-! ## Reset and invariants -/

/-- The reset values of the registers (70_reset_and_hazards.md R280). -/
def Obligations.ResetRegisterValues : Prop :=
  regRead State.reset .id = 0x42324455 ∧ regRead State.reset .version = 0x00000007 ∧
  (∀ r : Reg, r ≠ .id → r ≠ .version → regRead State.reset r = 0) ∧
  State.reset.irq = false ∧ State.reset.busy = false ∧ State.reset.profile = .f ∧ State.reset.outBank = false

/-- The invariant holds after reset. -/
def Obligations.GoodAtReset : Prop := State.reset.good = true

/-- Every step keeps the invariant: canonical memory, reserved bits 0, known error codes with their information values,
no pending command beside an error, QIDX in range, well-formed tables. The last property but one, of the raced bytes,
is the model's own (log 12). -/
def Obligations.GoodKeptByEveryStep : Prop := ∀ s t : State, s.good = true → step s = .next t → t.good = true

/-- No command, register write or reset changes the read-only tables (10_state.md R42). -/
def Obligations.TablesNeverChange : Prop := ∀ s t : State, step s = .next t → t.rom = s.rom

/-! ## Whole-machine rules of the engine -/

/-- A command ends in one of two ways: it completes (DONE, CMD_COUNT + 1, the error registers as they were), or it raises
one error of the table (ERRCODE 1 to 6, ERRCMD the command word; DONE, CMD_COUNT and RES0 as they were). In both, BUSY is 0
(60_exceptions.md R250, R251, R257). -/
def Obligations.EveryCommandCompletesOrRaises : Prop :=
  ∀ (i : Instr) (s t : State), exec i s = .next t →
    t.busy = false ∧
    ((t.done = true ∧ t.cmdCount = s.cmdCount + 1 ∧ t.errcode = s.errcode ∧ t.errcmd = s.errcmd ∧
        t.errinfo = s.errinfo) ∨
      (1 ≤ t.errcode.toNat ∧ t.errcode.toNat ≤ 6 ∧ t.errcmd = s.cmd ∧ t.done = s.done ∧ t.cmdCount = s.cmdCount ∧
        t.res0 = s.res0))

/-- No command writes an operand register, the bitstream base or length, a plane descriptor, IRQ_EN, CMD, WWB, the tables
or what is the host's (10_state.md R29, R34, R35, R37 to R39, R42). The host's queue, its last read value and the
counter are the model's own fields (log 17). -/
def Obligations.EngineOnlyReadsHostRegisters : Prop :=
  ∀ (i : Instr) (s t : State), exec i s = .next t →
    t.op0 = s.op0 ∧ t.op1 = s.op1 ∧ t.op2 = s.op2 ∧ t.op3 = s.op3 ∧ t.bsBase = s.bsBase ∧ t.bsLen = s.bsLen ∧
    t.planes = s.planes ∧ t.irqEn = s.irqEn ∧ t.cmd = s.cmd ∧ t.wwb = s.wwb ∧ t.rom = s.rom ∧ t.host = s.host ∧
    t.rdata = s.rdata ∧ t.draws = s.draws

/-- Which commands may change CONFIG, QIDX, RES0, COEF, the cursor, the warnings and bus memory; every other command
leaves them (10_state.md R23, R30, R31, R36, R41; 40_bitreader_vlc.md R102, R107). -/
def Obligations.OnlyNamedCommandsWrite : Prop :=
  ∀ (i : Instr) (s t : State), exec i s = .next t →
    (t.config = s.config ∨ i = .swapRef) ∧
    (t.qidx = s.qidx ∨ i = .qset) ∧
    (t.res0 = s.res0 ∨ (∃ n, i = .brRead n) ∨ i = .brSign ∨ (∃ n, i = .vlcDec n) ∨ i = .dcDequant ∨ (∃ k, i = .dcSeed k) ∨
      (∃ k, i = .dcClamp k) ∨ (∃ k, i = .dcMpred k) ∨ (∃ k, i = .dcMpred2 k) ∨ i = .midPred) ∧
    (t.coef = s.coef ∨ (∃ c k, i = .acDecode c k) ∨ i = .coefClear ∨ i = .dcInsert) ∧
    (t.bsPos = s.bsPos ∨ (∃ n, i = .brRead n) ∨ i = .brSkip ∨ i = .brAlign ∨ i = .brSign ∨ i = .brRealign ∨
      (∃ n, i = .vlcDec n) ∨ (∃ c k, i = .acDecode c k)) ∧
    (t.overread = s.overread ∨ (∃ n, i = .brRead n) ∨ i = .brSkip ∨ i = .brAlign ∨ i = .brSign ∨
      (∃ n, i = .vlcDec n) ∨ (∃ c k, i = .acDecode c k)) ∧
    (t.budgetWarn = s.budgetWarn ∨ i = .brRealign) ∧
    ((∀ a : Word, memGet t.mem a.toNat = memGet s.mem a.toNat) ∨ (∃ p r b, i = .idctPut p r b) ∨
      (∃ p r b, i = .idctAdd p r b) ∨ (∃ p, i = .mcL p) ∨ (∃ p, i = .mcC p))

/-! ## Bit reader and VLC -/

/-- bit(p) where no host write races the command: the bit of the byte at BS_BASE + (p >> 3) modulo 2^32 inside the
buffer, 0 beyond it (40_bitreader_vlc.md R100). -/
def Obligations.BitstreamBitIsTheBufferBit : Prop :=
  ∀ (s : State) (p : Nat), s.raced = [] →
    bitAt s p =
      if p < 8 * s.bsLen.toNat then (memGet s.mem ((s.bsBase.toNat + p / 8) % 2 ^ 32)).getLsbD (p % 8) else false

/-- What the bit reader reads depends on the bytes of the buffer alone (R100: no memory is read beyond it). -/
def Obligations.BitReaderSeesOnlyTheBuffer : Prop :=
  ∀ (s : State) (m : Memory) (pos : BitVec 64) (n : Nat), s.raced = [] →
    (∀ k < s.bsLen.toNat, memGet m ((s.bsBase.toNat + k) % 2 ^ 32) = memGet s.mem ((s.bsBase.toNat + k) % 2 ^ 32)) →
    peekBits { s with mem := m } pos n = peekBits s pos n

/-- BR_READ n: bit i of RES0 is the i-th next bit, the bits above n are 0, the cursor moves by n modulo 2^64, the
overread warning; nothing else (R101, R102, R103). With n above 32 it raises E_ILLEGAL and changes nothing else
(30_encoding.md R89(c)): that the meaning itself does so is the model's reading (log 22), that OVERREAD is not noted then
too (log 10), and that peeked positions do not wrap near 2^64 (log 9). -/
def Obligations.BrReadTakesTheNextBits : Prop :=
  ∀ (n : BitVec 6) (s : State),
    (n.toNat ≤ 32 → ∃ r : Word,
      exec (.brRead n) s =
        .next (completed (overreadNoted { s with res0 := r, bsPos := s.bsPos + BitVec.ofNat 64 n.toNat })) ∧
      ∀ i < 32, r.getLsbD i = (decide (i < n.toNat) && bitAt s (s.bsPos.toNat + i))) ∧
    (n.toNat > 32 → exec (.brRead n) s = .next (errored 0x01 0 s))

/-- BR_SKIP (R104): its word, and its whole effect. -/
def Obligations.BrSkipMovesTheCursor : Prop :=
  decodeWord 0x00000002 = .ok .brSkip ∧
  ∀ s : State, exec .brSkip s =
    .next (completed (overreadNoted { s with bsPos := BitVec.ofNat 64 (s.bsPos.toNat + s.op0.toNat) }))

/-- BR_ALIGN (R105): its word, and `(pos + 7) & ~7` modulo 2^64. -/
def Obligations.BrAlignRoundsUpToAByte : Prop :=
  decodeWord 0x00000003 = .ok .brAlign ∧
  ∀ s : State, exec .brAlign s = .next (completed (overreadNoted { s with bsPos := (s.bsPos + 7) &&& ~~~7 }))

/-- BR_SIGN (R106): a zero magnitude reads no bit; otherwise the next bit negates. -/
def Obligations.BrSignAppliesTheNextBit : Prop :=
  decodeWord 0x00000004 = .ok .brSign ∧
  ∀ s : State, exec .brSign s =
    if s.op0 = 0 then .next (completed (overreadNoted { s with res0 := 0 }))
    else .next (completed (overreadNoted
      { s with res0 := if bitAt s s.bsPos.toNat then -s.op0 else s.op0, bsPos := s.bsPos + 1 }))

/-- BR_REALIGN (R107): a warning when the cursor is more than 24 bits away either way, and the cursor at 8 * OP0. -/
def Obligations.BrRealignChecksTheBudget : Prop :=
  decodeWord 0x00000005 = .ok .brRealign ∧
  ∀ s : State, exec .brRealign s =
    .next (completed
      { s with
        budgetWarn := s.budgetWarn ||
          decide (s.bsPos.toNat > 8 * s.op0.toNat + 24 ∨ s.bsPos.toNat + 24 < 8 * s.op0.toNat)
        bsPos := BitVec.ofNat 64 (8 * s.op0.toNat) })

/-- VLC_DEC with a present, well-formed table: whichever entry the next bits match is the one decoded (R108, R109,
R110). -/
def Obligations.VlcDecDecodesTheMatchingEntry : Prop :=
  ∀ (tid : BitVec 4) (s : State) (t : List VlcEntry) (e : VlcEntry),
    vlcTable s.rom s.profile tid = some t → vlcTableOk t = true → e ∈ t → peekBits s s.bsPos e.len = e.code →
    exec (.vlcDec tid) s =
      .next (completed (overreadNoted
        { s with res0 := e.sym.setWidth 32, bsPos := s.bsPos + BitVec.ofNat 64 e.len }))

/-- VLC_DEC with an absent table raises E_ILLEGAL(0); where no entry matches, E_VLC with the low 32 bits of the cursor;
in both the cursor and RES0 stay and the overread warning is noted (R102, R109, R110). That it is noted on the early error of
an absent table is the model's reading (log 10). -/
def Obligations.VlcDecErrors : Prop :=
  ∀ (tid : BitVec 4) (s : State),
    (vlcTable s.rom s.profile tid = none → exec (.vlcDec tid) s = .next (errored 0x01 0 (overreadNoted s))) ∧
    (∀ t, vlcTable s.rom s.profile tid = some t → (∀ e ∈ t, peekBits s s.bsPos e.len ≠ e.code) →
      exec (.vlcDec tid) s = .next (errored 0x02 (s.bsPos.setWidth 32) (overreadNoted s)))

/-! ## Coefficients and dequantization -/

/-- QSET (41_coef_dequant.md R142, R143): an index in range goes to QIDX, any other raises E_QRANGE with the value. -/
def Obligations.QsetChecksTheIndex : Prop :=
  decodeWord 0x00000010 = .ok .qset ∧
  ∀ s : State, exec .qset s =
    if 0 ≤ s.op0.toInt ∧ s.op0.toInt < (if s.profile = .f then 16 else 37) then .next (completed { s with qidx := s.op0 })
    else .next (errored 0x03 s.op0 s)

/-- COEF_CLEAR (R148): its word; every entry of the file is 0 and nothing else changes. -/
def Obligations.CoefClearZeroesTheFile : Prop :=
  decodeWord 0x00000012 = .ok .coefClear ∧
  ∀ s : State, ∃ z : Vector Word 64, exec .coefClear s = .next (completed { s with coef := z }) ∧ ∀ i : Fin 64, z.get i = 0

/-- DC_DEQUANT (R149) with the index in range completes with the table's value; out of range it raises E_QRANGE. The
function is OPEN in the spec: its model is log 5. -/
def Obligations.DcDequantScalesOrRefuses : Prop :=
  ∀ s : State, exec .dcDequant s =
    if s.qidx.toNat < (if s.profile = .f then 16 else 37) then
      .next (resultIs (dcDequantValue s.rom s.profile s.op0 s.qidx) s)
    else .next (errored 0x03 s.qidx s)

/-- DC_INSERT (R150): COEF[0] gets DC_TO_COEF of OP0, every other entry stays. Over the intra DC range the coefficient is
about 8 times OP0 in profile G and about OP0 / 8 in profile F, which makes a DC-only block flat at about OP0 / 8
(90_conflicts.md C2). The function is OPEN in the spec: its model, how near "about" is, and that OP0 is read as an integer
under profile F too (open in R149; 91_not_in_source.md N12), are the model's choice (log 5). -/
def Obligations.DcInsertWritesPositionZero : Prop :=
  ∀ s : State, ∃ z : Vector Word 64, exec .dcInsert s = .next (completed { s with coef := z }) ∧
    (∀ i : Fin 64, z.get i = if i = 0 then dcCoefValue s.rom s.profile s.op0 else s.coef.get i) ∧
    (s.rom.ok = true → s.op0.toNat ≤ 2047 →
      (s.profile = .g → ((z.get 0).toInt - 8 * (s.op0.toNat : Int)).natAbs ≤ 64) ∧
      (s.profile = .f → ∃ neg m, f32OfBits (z.get 0) = .fin neg m ∧
        (8 * (if neg then -(m : Int) else (m : Int)) - (s.op0.toNat : Int) * 2 ^ 149).natAbs ≤ 8 * 2 ^ 149))

/-- DC_SEED (R152). -/
def Obligations.DcSeedGivesTheBase : Prop :=
  decodeWord 0x00000018 = .ok (.dcSeed .intra) ∧ decodeWord 0x00000118 = .ok (.dcSeed .inter) ∧
  ∀ s : State, exec (.dcSeed .intra) s = .next (resultIs 1024 s) ∧ exec (.dcSeed .inter) s = .next (resultIs 0 s)

/-- DC_CLAMP (R151, R153): below the range its low end, above it its high end, else the operand. -/
def Obligations.DcClampHoldsTheRange : Prop :=
  decodeWord 0x00000019 = .ok (.dcClamp .intra) ∧ decodeWord 0x00000119 = .ok (.dcClamp .inter) ∧
  ∀ (k : CodingClass) (s : State), exec (.dcClamp k) s =
    if s.op0.toInt < dcLow k then .next (resultIs (BitVec.ofInt 32 (dcLow k)) s)
    else if s.op0.toInt > dcHigh k then .next (resultIs (BitVec.ofInt 32 (dcHigh k)) s)
    else .next (resultIs s.op0 s)

/-- DC_MPRED (R151, R154): the gradient held between the least and greatest operand, clamped to the range. -/
def Obligations.DcMpredIsTheHeldGradient : Prop :=
  decodeWord 0x0000001A = .ok (.dcMpred .intra) ∧ decodeWord 0x0000011A = .ok (.dcMpred .inter) ∧
  ∀ (k : CodingClass) (s : State) (a b c : Int), a = s.op0.toInt → b = s.op1.toInt → c = s.op2.toInt →
    exec (.dcMpred k) s =
      .next (resultIs (BitVec.ofInt 32
        (min (max (min (max (c + b - a) (min a (min b c))) (max a (max b c))) (dcLow k)) (dcHigh k))) s)

/-- DC_MPRED2 (R151, R155) with the default average: the exact average truncated toward zero, clamped. The default is
the model's choice of a parameter (log 14). -/
def Obligations.DcMpred2IsTheTruncatedAverage : Prop :=
  decodeWord 0x0000001B = .ok (.dcMpred2 .intra) ∧ decodeWord 0x0000011B = .ok (.dcMpred2 .inter) ∧
  ∀ (k : CodingClass) (s : State) (a b : Int), a = s.op0.toInt → b = s.op1.toInt →
    exec (.dcMpred2 k) s =
      .next (resultIs (BitVec.ofInt 32 (min (max (Int.tdiv (a + b) 2) (dcLow k)) (dcHigh k))) s)

/-- MID_PRED (R156; 00_scope.md R10): RES0 is one of the operands, and at least two operands are at most it and at least
two at least it, as signed values. -/
def Obligations.MidPredIsTheMedian : Prop :=
  decodeWord 0x0000001C = .ok .midPred ∧
  ∀ s : State, ∃ r : Word, exec .midPred s = .next (resultIs r s) ∧ (r = s.op0 ∨ r = s.op1 ∨ r = s.op2) ∧
    2 ≤ [s.op0, s.op1, s.op2].countP (fun v => decide (v.toInt ≤ r.toInt)) ∧
    2 ≤ [s.op0, s.op1, s.op2].countP (fun v => decide (r.toInt ≤ v.toInt))

/-- AC_DECODE (R147): with QIDX in range and no error in the loop it completes with the loop's cursor and file; with
well-formed tables the loop is the walk that R144 to R147 spell out, and what profile F writes is `(i2f(v) *f q) *f m`
(R146). The parameters with a default are at it, the model's choice (log 14). -/
def Obligations.AcDecodeCompletes : Prop :=
  (∀ (c : PlaneClass) (k : CodingClass) (s : State) (r : AcRun),
    s.qidx.toNat < (if s.profile = .f then 16 else 37) → acLoop s c k true 64 (acStart s) = (r, none) →
    exec (.acDecode c k) s = .next (completed (overreadNoted { s with bsPos := r.pos, coef := r.coef }))) ∧
  (∀ (c : PlaneClass) (k : CodingClass) (s : State) (pos : BitVec 64) (f : Vector Word 64), s.rom.ok = true →
    s.qidx.toNat < (if s.profile = .f then 16 else 37) →
    AcWalk s c k 1 s.bsPos (Vector.replicate 64 0) pos f none →
    exec (.acDecode c k) s = .next (completed (overreadNoted { s with bsPos := pos, coef := f }))) ∧
  (∀ (v : Int) (q m : Word), f32OfBits (deqF v q m) = f32Mul (f32Mul (f32OfInt v) (f32OfBits q)) (f32OfBits m)) ∧
  (∀ (r : Rom) (p : Profile), r.ok = true → acMag r p 0 = (0, 0))

/-- AC_DECODE (R147, R252): an index out of range raises E_QRANGE before anything changes; an error in the loop, the walk
that R144 to R147 spell out, keeps the zeroing, the entries written and the bits consumed. The errors of the walk are
E_ILLEGAL(0), E_VLC and E_RANGE(0) outside 32 bits (R146). OVERREAD on the early error is the model's reading (log 10);
the parameters with a default are at it, the model's choice (log 14). -/
def Obligations.AcDecodeErrors : Prop :=
  (∀ (c : PlaneClass) (k : CodingClass) (s : State),
    (¬ s.qidx.toNat < (if s.profile = .f then 16 else 37) →
      exec (.acDecode c k) s = .next (errored 0x03 s.qidx (overreadNoted s))) ∧
    (∀ r e, s.qidx.toNat < (if s.profile = .f then 16 else 37) → acLoop s c k true 64 (acStart s) = (r, some e) →
      exec (.acDecode c k) s =
        .next (errored (errCode e.kind) e.info (overreadNoted { s with bsPos := r.pos, coef := r.coef })))) ∧
  (∀ (c : PlaneClass) (k : CodingClass) (s : State) (pos : BitVec 64) (f : Vector Word 64) (e : Raise), s.rom.ok = true →
    s.qidx.toNat < (if s.profile = .f then 16 else 37) →
    AcWalk s c k 1 s.bsPos (Vector.replicate 64 0) pos f (some e) →
    exec (.acDecode c k) s = .next (errored
      (match e.kind with
        | .illegal => 0x01
        | .vlc => 0x02
        | .qrange => 0x03
        | .noref => 0x04
        | .dst => 0x05
        | .range => 0x06)
      e.info (overreadNoted { s with bsPos := pos, coef := f })))

/-- With well-formed tables AC_DECODE leaves COEF[0] at 0, with or without an error in its loop (R141, R147). -/
def Obligations.AcDecodeLeavesDcZero : Prop :=
  ∀ (c : PlaneClass) (k : CodingClass) (s t : State), s.rom.ok = true →
    s.qidx.toNat < (if s.profile = .f then 16 else 37) → exec (.acDecode c k) s = .next t → t.coef.get 0 = 0

/-- The bound on the rounds of AC_DECODE's loop is never what ends it: more rounds give the same result (R147: the scan
index strictly increases); and the walk that R147 spells out has an end from every state. -/
def Obligations.AcLoopEndsByItself : Prop :=
  (∀ (s : State) (c : PlaneClass) (k : CodingClass) (afterZero : Bool) (n : Nat),
    acLoop s c k afterZero (64 + n) (acStart s) = acLoop s c k afterZero 64 (acStart s)) ∧
  (∀ (s : State) (c : PlaneClass) (k : CodingClass), ∃ pos f e, AcWalk s c k 1 s.bsPos (Vector.replicate 64 0) pos f e)

/-! ## Binary32 -/

/-- The rounding is to a nearest binary32 magnitude (00_scope.md R11): no number with 24 significant bits is nearer to
n / 2^k, in units of 2^-149. Midway between two neighbouring magnitudes it is to the one with the even significand. -/
def Obligations.RoundingIsToANearestValue : Prop :=
  (∀ n k a e : Nat, a < 2 ^ 24 →
    (((roundMag n k * 2 ^ k : Nat) : Int) - (n : Int)).natAbs ≤ (((a * 2 ^ e * 2 ^ k : Nat) : Int) - (n : Int)).natAbs) ∧
  (∀ n k a e : Nat, a < 2 ^ 24 → (2 ^ 23 ≤ a ∨ e = 0) → 2 * n = (2 * a + 1) * 2 ^ e * 2 ^ k →
    roundMag n k = if a % 2 = 0 then a * 2 ^ e else (a + 1) * 2 ^ e)

/-- The rounded magnitude has 24 significant bits, and a magnitude that has them is not changed (R11). -/
def Obligations.RoundingGivesBinary32Values : Prop :=
  (∀ n k : Nat, ∃ a e : Nat, a < 2 ^ 24 ∧ roundMag n k = a * 2 ^ e) ∧
  (∀ a e k : Nat, a < 2 ^ 24 → roundMag (a * 2 ^ e * 2 ^ k) k = a * 2 ^ e)

/-- A pattern that is no NaN is the pattern of the value it stands for (R11: IEEE 754 bit patterns). -/
def Obligations.PatternsAndValuesAgree : Prop :=
  ∀ free w : Word, f32OfBits w ≠ .nan → f32ToBits free (f32OfBits w) = w

/-! ## Transform -/

/-- IDCT.PUT and IDCT.ADD with the destination inside the plane and a transform in range: the 64 pixels are stored and
the command completes (42_idct.md R183, R184, R186, R187, R190 to R192). Kernels, pass order and conversion are at the
spec's defaults, the model's choice of parameters (logs 14 and 15). -/
def Obligations.IdctCompletes : Prop :=
  ∀ (p : Plane) (repos : Bool) (blk : BitVec 4) (s : State) (x y : Nat) (d : PlaneDesc) (r : Block Int),
    (x, y) = destPos s repos blk → d = s.plane s.outBank p → x + 8 ≤ planeWidth d → y + 8 ≤ planeHeight d →
    (residual .put s = .ok r → exec (.idctPut p repos blk) s =
      .next (completed { s with mem := memStore s.mem (blockCells d x y (blockRows (pixels .put s d x y r))) })) ∧
    (residual .add s = .ok r → exec (.idctAdd p repos blk) s =
      .next (completed { s with mem := memStore s.mem (blockCells d x y (blockRows (pixels .add s d x y r))) }))

/-- The errors of the transform commands in their order: E_DST(0), then profile G E_RANGE(1), E_RANGE(2), profile F
E_RANGE(3); no sample is written (42_idct.md R183, R187, R190, R191; 60_exceptions.md R253). Kernels and pass order
are at the spec's defaults, the model's choice of parameters (logs 14 and 15). -/
def Obligations.IdctErrorsInOrder : Prop :=
  ∀ (p : Plane) (repos : Bool) (blk : BitVec 4) (s : State) (x y : Nat) (d : PlaneDesc) (i : Instr),
    (i = .idctPut p repos blk ∨ i = .idctAdd p repos blk) → (x, y) = destPos s repos blk → d = s.plane s.outBank p →
    if x + 8 > planeWidth d ∨ y + 8 > planeHeight d then exec i s = .next (errored 0x05 0 s)
    else
      (s.profile = .g → (∃ u v, fits16 (coefAt s u v).toInt = false) → exec i s = .next (errored 0x06 1 s)) ∧
      (s.profile = .g → (∀ u v, fits16 (coefAt s u v).toInt = true) →
        (∃ u v, fits16 (blockGet (columnPass gKernel (coefBlock signed s)) u v) = false) →
        exec i s = .next (errored 0x06 2 s)) ∧
      (s.profile = .f →
        (∃ u v, f32Finite (f32Sub (blockGet (fTransform .columnsFirst (coefBlock f32OfBits s)) u v) fOffset) = false) →
        exec i s = .next (errored 0x06 3 s))

/-- Profile G, DC-only: every residual is COEF[0] >> 6, in Put and Add, for either pass order (42_idct.md R193); so with
COEF[0] within 64 of 8 * d every Put pixel is within 1 of d / 8 (41_coef_dequant.md R150). The kernel is the spec's default,
the model's choice of a parameter (log 15); how near "about" is in R150 too (log 5). -/
def Obligations.DcOnlyBlockIsFlatInProfileG : Prop :=
  ∀ (s : State) (mode : StoreMode) (order : PassOrder) (cvt : AddConversion), s.profile = .g →
    (∀ i : Fin 64, i ≠ 0 → s.coef.get i = 0) → fits16 (s.coef.get 0).toInt = true →
    ∃ r, residual mode s = .ok r ∧ residualWith order cvt mode s = .ok r ∧
      (∀ y x, blockGet r y x = (s.coef.get 0).toInt / 64) ∧
      (∀ d : Nat, d ≤ 2047 → ((s.coef.get 0).toInt - 8 * (d : Int)).natAbs ≤ 64 →
        ∀ y x, (((clipUint8 (blockGet r y x)).toNat : Int) - ((d / 8 : Nat) : Int)).natAbs ≤ 1)

/-- Profile F, DC-only, for either pass order (R186, R187, R193): every output of the transform is COEF[0] +f 512.5, so
every e is (COEF[0] +f 512.5) -f 512.0; where e is not finite the command raises E_RANGE(3), else every Put pixel is
clip_uint8(floor(e)) and every Add residual the converted e. The kernel is the spec's default, the model's choice of a
parameter (log 15). -/
def Obligations.DcOnlyBlockIsFlatInProfileF : Prop :=
  (∀ (s : State) (order : PassOrder), (∀ i : Fin 64, i ≠ 0 → s.coef.get i = 0) →
    ∀ y x, blockGet (fTransform order (coefBlock f32OfBits s)) y x = f32Add (f32OfBits (s.coef.get 0)) fBias) ∧
  (∀ (s : State) (order : PassOrder) (cvt : AddConversion) (e : F32), s.profile = .f →
    (∀ i : Fin 64, i ≠ 0 → s.coef.get i = 0) →
    e = f32Sub (f32Add (f32OfBits (s.coef.get 0)) (f32OfBits 0x44002000)) (f32OfBits 0x44000000) →
    (f32Finite e = false → ∀ mode, residualWith order cvt mode s = .error ⟨.range, 3⟩) ∧
    (f32Finite e = true →
      (∃ r, residualWith order cvt .put s = .ok r ∧
        ∀ (d : PlaneDesc) (x0 y0 : Nat) y x, blockGet (pixels .put s d x0 y0 r) y x = clipUint8 (f32Floor e)) ∧
      (∃ r, residualWith order cvt .add s = .ok r ∧
        ∀ y x, blockGet r y x = if cvt = .floor then f32Floor e else f32Trunc e)))

/-- Where the 64 destination samples lie at different addresses, each reads as its pixel after the command
(20_memory.md R62; 42_idct.md R191, R192). -/
def Obligations.IdctStoresEachPixel : Prop :=
  ∀ (p : Plane) (repos : Bool) (blk : BitVec 4) (s t : State) (x y : Nat) (d : PlaneDesc) (mode : StoreMode)
    (r : Block Int), Memory.wf s.mem = true → (x, y) = destPos s repos blk → d = s.plane s.outBank p →
    x + 8 ≤ planeWidth d → y + 8 ≤ planeHeight d → samplesDistinct d x y 8 → residual mode s = .ok r →
    exec (match mode with | .put => .idctPut p repos blk | .add => .idctAdd p repos blk) s = .next t →
    ∀ i j : Fin 8, memGet t.mem (sampleAddr d (x + i.val) (y + j.val)).toNat =
      match mode with
      | .put => clipUint8 (blockGet r j i)
      | .add => clipUint8 (sample s d (x + i.val) (y + j.val) + blockGet r j i)

/-! ## Motion compensation -/

/-- MC_L and MC_C: without a reference E_NOREF(0); then E_DST(0) for a destination outside the output plane; nothing
else changes (43_motion_comp.md R217, R218; 60_exceptions.md R253). -/
def Obligations.McErrorsInOrder : Prop :=
  ∀ (p : Plane) (s : State) (i : Instr) (n : Nat), (i = .mcL p ∧ n = 16) ∨ (i = .mcC p ∧ n = 8) →
    (s.refValid = false → exec i s = .next (errored 0x04 0 s)) ∧
    (s.refValid = true →
      s.op0.toNat + n > planeWidth (s.plane s.outBank p) ∨ s.op1.toNat + n > planeHeight (s.plane s.outBank p) →
      exec i s = .next (errored 0x05 0 s))

/-- A read set that leaves the reference plane: the command completes and writes nothing (43_motion_comp.md R216). The
window test is that the columns and rows R216 gives lie inside the plane, and they hold every reference sample the
prediction depends on (R214, R215). MC_WINDOW is at its default, the model's choice of a parameter (log 14). -/
def Obligations.McOutsideWindowLeavesAllUntouched : Prop :=
  (∀ (p : Plane) (s : State), s.refValid = true →
      (s.op0.toNat + 16 ≤ planeWidth (s.plane s.outBank p) → s.op1.toNat + 16 ≤ planeHeight (s.plane s.outBank p) →
        windowInside (s.plane s.refBank p) (lumaReadSet (axisPos s.op0 s.op2 1)) (lumaReadSet (axisPos s.op1 s.op3 1)) = false →
        exec (.mcL p) s = .next (completed s)) ∧
      (s.op0.toNat + 8 ≤ planeWidth (s.plane s.outBank p) → s.op1.toNat + 8 ≤ planeHeight (s.plane s.outBank p) →
        windowInside (s.plane s.refBank p) (chromaReadSet (axisPos s.op0 s.op2 2)) (chromaReadSet (axisPos s.op1 s.op3 2)) =
          false →
        exec (.mcC p) s = .next (completed s))) ∧
  (∀ (d : PlaneDesc) (h v : AxisPos),
    (windowInside d (lumaReadSet h) (lumaReadSet v) = true ↔ spansInside d (lumaSpan h) (lumaSpan v)) ∧
    (windowInside d (chromaReadSet h) (chromaReadSet v) = true ↔ spansInside d (chromaSpan h) (chromaSpan v))) ∧
  (∀ (r q : Int → Int → Int) (h v : AxisPos) (i j : Int), 0 ≤ i → 0 ≤ j →
    (i ≤ 15 → j ≤ 15 → (h.phase = 0 ∨ h.phase = 1) → (v.phase = 0 ∨ v.phase = 1) →
      agreeOn r q (lumaSpan h) (lumaSpan v) → lumaPred r h v i j = lumaPred q h v i j) ∧
    (i ≤ 7 → j ≤ 7 → agreeOn r q (chromaSpan h) (chromaSpan v) → chromaPred r h v i j = chromaPred q h v i j))

/-- MC_L and MC_C with a reference, the destination inside and the read set inside: the predicted block is stored and the
command completes (R214, R215, R217, R218). Position and phase are those of the vector (R210), the prediction is the one the
phases give with the filters of R212 and R213, it lies in 0..255 for samples in 0..255, a constant reference is reproduced,
and each destination sample reads as its prediction (R214, R215). The filters are the spec's defaults, the model's choice
of parameters (log 15). -/
def Obligations.McCompletes : Prop :=
  (∀ (p : Plane) (s : State) (x y : Nat) (d : PlaneDesc), s.refValid = true → d = s.plane s.outBank p →
      x = s.op0.toNat → y = s.op1.toNat →
      (x + 16 ≤ planeWidth d → y + 16 ≤ planeHeight d →
        windowInside (s.plane s.refBank p) (lumaReadSet (axisPos s.op0 s.op2 1)) (lumaReadSet (axisPos s.op1 s.op3 1)) = true →
        exec (.mcL p) s =
          .next (completed { s with mem := memStore s.mem (blockCells d x y (predRows 16
            (lumaPred (refSample s (s.plane s.refBank p)) (axisPos s.op0 s.op2 1) (axisPos s.op1 s.op3 1)))) })) ∧
      (x + 8 ≤ planeWidth d → y + 8 ≤ planeHeight d →
        windowInside (s.plane s.refBank p) (chromaReadSet (axisPos s.op0 s.op2 2)) (chromaReadSet (axisPos s.op1 s.op3 2)) =
          true →
        exec (.mcC p) s =
          .next (completed { s with mem := memStore s.mem (blockCells d x y (predRows 8
            (chromaPred (refSample s (s.plane s.refBank p)) (axisPos s.op0 s.op2 2) (axisPos s.op1 s.op3 2)))) }))) ∧
  (∀ dest mv : Word,
    (2 * (axisPos dest mv 1).pos + (axisPos dest mv 1).phase = 2 * (dest.toNat : Int) + mv.toInt ∧
      0 ≤ (axisPos dest mv 1).phase ∧ (axisPos dest mv 1).phase ≤ 1) ∧
    (4 * (axisPos dest mv 2).pos + (axisPos dest mv 2).phase = 4 * (dest.toNat : Int) + mv.toInt ∧
      0 ≤ (axisPos dest mv 2).phase ∧ (axisPos dest mv 2).phase ≤ 3)) ∧
  (∀ (r : Int → Int → Int) (h v : AxisPos) (i j : Int),
    (h.phase = 0 → v.phase = 0 → lumaPred r h v i j = r (h.pos + i) (v.pos + j)) ∧
    (h.phase = 1 → v.phase = 0 → lumaPred r h v i j = lumaTaps fun a => r (h.pos + i + a) (v.pos + j)) ∧
    (h.phase = 0 → v.phase = 1 → lumaPred r h v i j = lumaTaps fun b => r (h.pos + i) (v.pos + j + b)) ∧
    (h.phase = 1 → v.phase = 1 →
      lumaPred r h v i j = lumaTaps fun b => lumaTaps fun a => r (h.pos + i + a) (v.pos + j + b))) ∧
  (∀ (r : Int → Int → Int) (h v : AxisPos) (i j : Int),
    0 ≤ h.phase → h.phase ≤ 3 → 0 ≤ v.phase → v.phase ≤ 3 →
    (h.phase = 0 → v.phase = 0 → chromaPred r h v i j = r (h.pos + i) (v.pos + j)) ∧
    (h.phase ≠ 0 → v.phase = 0 →
      chromaPred r h v i j = chromaTaps h.phase (r (h.pos + i) (v.pos + j)) (r (h.pos + i + 1) (v.pos + j))) ∧
    (h.phase = 0 → v.phase ≠ 0 →
      chromaPred r h v i j = chromaTaps v.phase (r (h.pos + i) (v.pos + j)) (r (h.pos + i) (v.pos + j + 1))) ∧
    (h.phase ≠ 0 → v.phase ≠ 0 →
      chromaPred r h v i j = chromaTaps v.phase
        (chromaTaps h.phase (r (h.pos + i) (v.pos + j)) (r (h.pos + i + 1) (v.pos + j)))
        (chromaTaps h.phase (r (h.pos + i) (v.pos + j + 1)) (r (h.pos + i + 1) (v.pos + j + 1))))) ∧
  (∀ (r : Int → Int → Int) (h v : AxisPos) (i j : Int), (∀ x y, 0 ≤ r x y ∧ r x y ≤ 255) →
    (0 ≤ lumaPred r h v i j ∧ lumaPred r h v i j ≤ 255) ∧ (0 ≤ chromaPred r h v i j ∧ chromaPred r h v i j ≤ 255) ∧
    ∀ g, (∀ x y, r x y = g) → lumaPred r h v i j = g ∧ chromaPred r h v i j = g) ∧
  (∀ (m : Memory) (d : PlaneDesc) (x y n : Nat) (pred : Int → Int → Int), Memory.wf m = true → samplesDistinct d x y n →
    ∀ i j : Nat, i < n → j < n →
      memGet (memStore m (blockCells d x y (predRows n pred))) (sampleAddr d (x + i) (y + j)).toNat =
        BitVec.ofInt 8 (pred i j))

/-- A zero vector copies the co-located block byte for byte where it lies inside both planes (R219); no host write races
the command and the destination samples lie at different addresses. -/
def Obligations.ZeroVectorCopiesTheReference : Prop :=
  ∀ (p : Plane) (s t : State) (i : Instr) (n : Nat) (d e : PlaneDesc), (i = .mcL p ∧ n = 16) ∨ (i = .mcC p ∧ n = 8) →
    d = s.plane s.outBank p → e = s.plane s.refBank p → Memory.wf s.mem = true → s.raced = [] → s.refValid = true →
    s.op2 = 0 → s.op3 = 0 →
    s.op0.toNat + n ≤ planeWidth d → s.op1.toNat + n ≤ planeHeight d →
    s.op0.toNat + n ≤ planeWidth e → s.op1.toNat + n ≤ planeHeight e →
    samplesDistinct d s.op0.toNat s.op1.toNat n → exec i s = .next t →
    t.done = true ∧ t.errcode = s.errcode ∧
    ∀ k l, k < n → l < n → memGet t.mem (sampleAddr d (s.op0.toNat + k) (s.op1.toNat + l)).toNat =
      memGet s.mem (sampleAddr e (s.op0.toNat + k) (s.op1.toNat + l)).toNat

/-- The pixel commands change no byte of bus memory outside the destination block, whose address the command's own
destination gives (42_idct.md R189, R191, R192; 43_motion_comp.md R217, R218). -/
def Obligations.PixelCommandsWriteOnlyTheirBlock : Prop :=
  ∀ (p : Plane) (s t : State) (a : Word),
    (∀ (repos : Bool) (blk : BitVec 4) (x y : Nat), (x, y) = destPos s repos blk →
      outsideBlock (s.plane s.outBank p) x y 8 a →
      (exec (.idctPut p repos blk) s = .next t ∨ exec (.idctAdd p repos blk) s = .next t) →
      memGet t.mem a.toNat = memGet s.mem a.toNat) ∧
    (outsideBlock (s.plane s.outBank p) s.op0.toNat s.op1.toNat 16 a → exec (.mcL p) s = .next t →
      memGet t.mem a.toNat = memGet s.mem a.toNat) ∧
    (outsideBlock (s.plane s.outBank p) s.op0.toNat s.op1.toNat 8 a → exec (.mcC p) s = .next t →
      memGet t.mem a.toNat = memGet s.mem a.toNat)

/-! ## System commands -/

/-- NOP (44_system.md R240): the word 0 only, any other word with OP 0 is illegal, and no effect beyond completion. -/
def Obligations.NopOnlyCompletes : Prop :=
  (∀ w : Word, decodeWord w = .ok .nop ↔ w = 0) ∧
  (∀ w : Word, w.extractLsb' 0 8 = 0 → w ≠ 0 → decodeWord w = .error (.reservedBits 0)) ∧
  ∀ s : State, exec .nop s = .next (completed s)

/-- SWAP_REF (R241): OUTSEL toggles, REF_VALID becomes 1, every other bit of CONFIG and everything else stays. -/
def Obligations.SwapRefExchangesTheBanks : Prop :=
  decodeWord 0x00000030 = .ok .swapRef ∧
  ∀ s : State, ∃ c : Word, exec .swapRef s = .next (completed { s with config := c }) ∧
    ∀ i, c.getLsbD i = if i = 2 then !s.config.getLsbD 2 else if i = 1 then true else s.config.getLsbD i

/-! ## The host's side -/

/-- A write of CMD while idle: accepted without an error, discarded with one (10_state.md R27; 60_exceptions.md R254).
The counter of free choices is the model's own (log 17). -/
def Obligations.CmdWriteIsAcceptedOrDiscarded : Prop :=
  ∀ (s : State) (v : Word) (rest : List HostAction), s.busy = false → hostWrites s 0x018 v rest →
    step s = .next (if s.errcode = 0 then { s with cmd := v, busy := true, draws := s.draws + 1, host := rest }
      else { s with host := rest })

/-- A register write while busy, at any aligned offset but those of STATUS and CTRL, is lost and sets WWB
(10_state.md R44(b), R45). -/
def Obligations.BusyWriteIsLostAndFlagged : Prop :=
  ∀ (s : State) (off : BitVec 12) (v : Word) (rest : List HostAction), s.busy = true → hostWrites s off v rest →
    off ≠ 0x00C → off ≠ 0x014 → step s = .next { s with wwb := true, host := rest }

/-- A write of STATUS, idle or busy, clears each flag whose bit is 1, and ERRCODE if bit 2 is, and changes nothing else
(10_state.md R24; 60_exceptions.md R255). -/
def Obligations.StatusWriteClearsFlags : Prop :=
  ∀ (s : State) (v : Word) (rest : List HostAction), hostWrites s 0x00C v rest →
    step s = .next
      { s with
        done := s.done && !v.getLsbD 1
        errcode := if v.getLsbD 2 then 0 else s.errcode
        overread := s.overread && !v.getLsbD 3
        budgetWarn := s.budgetWarn && !v.getLsbD 4
        wwb := s.wwb && !v.getLsbD 5
        host := rest }

/-- The register map: the register at each offset the map gives (10_state.md R20), and a listed register at no other
aligned offset; every other aligned offset is reserved and reads 0 (R45). -/
def Obligations.RegisterMapHoldsItsOffsets : Prop :=
  (∀ (r : Reg) (o : Nat), regOffset r = some o → o % 4 = 0 ∧ o < 4096 ∧ regAt o = r) ∧
  (∀ o : Nat, o % 4 = 0 → regAt o ≠ .reserved → regOffset (regAt o) = some o) ∧
  (∀ o : Nat, (∀ r : Reg, regOffset r ≠ some o) → o % 4 = 0 → regAt o = .reserved) ∧
  (∀ s : State, regRead s .reserved = 0)

/-- A write of a plain read-write register while idle makes it read the value written and every other register as
before (10_state.md R29, R34 to R41; 20_memory.md R67); the step at an aligned idle host write does that write. CONFIG and
IRQ_EN keep bits 2:0 of the value (R23, R25), a read-only or reserved register ignores it (R21, R22, R28, R30 to R33, R45),
and CTRL ignores a value with bit 0 = 0 (70_reset_and_hazards.md R281). -/
def Obligations.PlainRegisterReadsBackItsWrite : Prop :=
  (∀ (s : State) (v : Word) (r : Reg), plainReg r →
    ∀ q : Reg, regRead (regWrite s v r) q = if q = r then v else regRead s q) ∧
  (∀ (s : State) (off : BitVec 12) (v : Word) (rest : List HostAction) (r : Reg), s.busy = false →
    hostWrites s off v rest → r = regAt off.toNat →
    (plainReg r → ∃ t, step s = .next t ∧ onlyRegisters s t rest ∧ ∀ q : Reg, regRead t q = if q = r then v else regRead s q) ∧
    (r = .config ∨ r = .irqEn →
      ∃ t, step s = .next t ∧ onlyRegisters s t rest ∧ (∀ q : Reg, q ≠ r → regRead t q = regRead s q) ∧
        ∀ i : Nat, (regRead t r).getLsbD i = (decide (i ≤ 2) && v.getLsbD i)) ∧
    (ignoresWrites r → step s = .next { s with host := rest }) ∧
    (r = .ctrl → v.getLsbD 0 = false → step s = .next { s with host := rest }))

/-- A host read of the window changes only what the read returns, which at an aligned 32-bit access is the register
(10_state.md R20, R44(c); 20_memory.md R67). What the read returned is a field of the model's own (log 17). -/
def Obligations.WindowReadHasNoSideEffect : Prop :=
  ∀ (s : State) (off : BitVec 12) (rest : List HostAction), s.host = .read off .word :: rest → off.toNat % 4 = 0 →
    step s = .next { s with rdata := regRead s (regAt off.toNat), host := rest }

/-- What STATUS reads (10_state.md R24): each field at its bits, the others 0; and the interrupt output as a function of
what STATUS and IRQ_EN read (60_exceptions.md R258). -/
def Obligations.StatusReadsItsFieldsAndIrqFollows : Prop :=
  ∀ s : State,
    (∀ i : Nat, (regRead s .status).getLsbD i =
      if i = 0 then s.busy else if i = 1 then s.done else if i = 2 then decide (s.errcode ≠ 0)
      else if i = 3 then s.overread else if i = 4 then s.budgetWarn else if i = 5 then s.wwb
      else if 8 ≤ i ∧ i ≤ 15 then s.errcode.getLsbD (i - 8) else false) ∧
    s.irq =
      (((regRead s .status).getLsbD 1 && (regRead s .irqEn).getLsbD 0) ||
        ((regRead s .status).getLsbD 2 && (regRead s .irqEn).getLsbD 1) ||
        (((regRead s .status).getLsbD 3 || (regRead s .status).getLsbD 4) && (regRead s .irqEn).getLsbD 2))

/-- A soft reset: every register and the coefficient file read as after reset, IRQ is 0, the tables stay. While idle bus
memory stays (70_reset_and_hazards.md R281); while busy it is as it was or as the pending command's completion leaves it
(R282). How the choice is drawn is the model's (log 11). -/
def Obligations.SoftResetGivesTheResetRegisters : Prop :=
  ∀ (s : State) (v : Word) (rest : List HostAction), hostWrites s 0x014 v rest → v.getLsbD 0 = true →
    ∃ t, step s = .next t ∧ (∀ r : Reg, regRead t r = regRead State.reset r) ∧ t.irq = false ∧ t.busy = false ∧
      t.rom = s.rom ∧
      (t.mem = s.mem ∨ (s.busy = true ∧ ∃ u, runWord s.cmd s = .next u ∧ t.mem = u.mem))

/-- Races (70_reset_and_hazards.md R286): a byte the host wrote while the command is pending is read by the command as
one of the bytes it held since, every other byte as memory holds it; and a host read of bus memory while a command is
pending gives the byte as it is or as the command's completion leaves it. How the bytes are drawn is the model's (log
12). -/
def Obligations.RacesGiveOldOrNewBytes : Prop :=
  (∀ (s : State) (a : Word),
    (busRead s a = memGet s.mem a.toNat ∨ (a.toNat, busRead s a) ∈ s.raced) ∧
    ((∀ c ∈ s.raced, c.1 ≠ a.toNat) → busRead s a = memGet s.mem a.toNat)) ∧
  (∀ (s : State) (a : Word) (rest : List HostAction), s.busy = true → s.host = .memRead a :: rest →
    ∃ b : Byte, step s = .next { s with rdata := b.setWidth 32, draws := s.draws + 1, host := rest } ∧
      (b = memGet s.mem a.toNat ∨ ∃ u, runWord s.cmd s = .next u ∧ b = memGet u.mem a.toNat))
end

