-- ==== Sys2Proof/Laws/Memory.lean ====
section
/-! SUPPORT. The laws of bus memory: a read after a write, the bytes a write leaves alone, the canonical form, and that
memories in canonical form with equal reads are equal data. -/

namespace Sys2Proof.Machine

@[simp] theorem memGet_nil (a : Nat) : memGet [] a = unlistedByte := rfl

@[simp] theorem memGet_cons (b : Nat) (w : Byte) (m : Memory) (a : Nat) :
    memGet ((b, w) :: m) a = if a = b then w else memGet m a := rfl

theorem memory_wfAbove_mono {m : Memory} {lo hi : Nat} (h : Memory.wfAbove m hi = true) (le : lo ≤ hi) :
    Memory.wfAbove m lo = true := by
  cases m with
  | nil => rfl
  | cons c m =>
    obtain ⟨a, v⟩ := c
    simp only [Memory.wfAbove, Bool.and_eq_true, decide_eq_true_eq] at h ⊢
    exact ⟨⟨⟨by omega, h.1.1.2⟩, h.1.2⟩, h.2⟩

/-- Below the bound of a canonical memory nothing is listed. -/
theorem memGet_below {m : Memory} {lo a : Nat} (h : Memory.wfAbove m lo = true) (lt : a < lo) :
    memGet m a = unlistedByte := by
  induction m generalizing lo with
  | nil => rfl
  | cons c m ih =>
    obtain ⟨b, w⟩ := c
    simp only [Memory.wfAbove, Bool.and_eq_true, decide_eq_true_eq] at h
    have : a ≠ b := by omega
    simp only [memGet_cons, if_neg this]
    exact ih h.2 (by omega)

/-- Reading the address just written gives the value written. -/
theorem memGet_memSet_same {m : Memory} {lo : Nat} (h : Memory.wfAbove m lo = true) (a : Nat) (v : Byte) :
    memGet (memSet m a v) a = v := by
  induction m generalizing lo with
  | nil => by_cases hv : v = unlistedByte <;> simp [memSet, hv]
  | cons c m ih =>
    obtain ⟨b, w⟩ := c
    simp only [Memory.wfAbove, Bool.and_eq_true, decide_eq_true_eq] at h
    by_cases lt : a < b
    · have below : memGet m a = unlistedByte := memGet_below h.2 (by omega)
      have ne : a ≠ b := by omega
      by_cases hv : v = unlistedByte <;> simp [memSet, lt, hv, ne, below]
    · by_cases eq : a = b
      · have below : memGet m a = unlistedByte := memGet_below h.2 (by omega)
        by_cases hv : v = unlistedByte
        · subst eq; simpa [memSet, hv] using below
        · simp [memSet, eq, hv]
      · simp only [memSet, if_neg lt, if_neg eq, memGet_cons]
        exact ih h.2

/-- A write leaves every other address alone; this needs no canonical form. -/
theorem memGet_memSet_other {m : Memory} {a b : Nat} (ne : b ≠ a) (v : Byte) : memGet (memSet m a v) b = memGet m b := by
  induction m with
  | nil => by_cases hv : v = unlistedByte <;> simp [memSet, hv, ne]
  | cons c m ih =>
    obtain ⟨d, w⟩ := c
    by_cases lt : a < d
    · by_cases hv : v = unlistedByte <;> simp [memSet, lt, hv, ne]
    · by_cases eq : a = d
      · subst eq
        by_cases hv : v = unlistedByte <;> simp [memSet, hv, ne]
      · by_cases bd : b = d <;> simp [memSet, lt, eq, bd, ih]

theorem memSet_wfAbove {m : Memory} {lo a : Nat} (h : Memory.wfAbove m lo = true) (v : Byte) (la : lo ≤ a)
    (ha : a < 2 ^ 32) : Memory.wfAbove (memSet m a v) lo = true := by
  induction m generalizing lo with
  | nil =>
    by_cases hv : v = unlistedByte
    · simp [memSet, hv, Memory.wfAbove]
    · simp only [memSet, if_neg hv, Memory.wfAbove, Bool.and_true, Bool.and_eq_true, decide_eq_true_eq, bne_iff_ne]
      exact ⟨⟨la, ha⟩, hv⟩
  | cons c m ih =>
    obtain ⟨b, w⟩ := c
    have h' := h
    simp only [Memory.wfAbove, Bool.and_eq_true, decide_eq_true_eq, bne_iff_ne] at h
    by_cases lt : a < b
    · by_cases hv : v = unlistedByte
      · simpa [memSet, lt, hv] using h'
      · simp only [memSet, if_pos lt, if_neg hv, Memory.wfAbove, Bool.and_eq_true, decide_eq_true_eq, bne_iff_ne]
        exact ⟨⟨⟨la, ha⟩, hv⟩, ⟨⟨⟨by omega, h.1.1.2⟩, h.1.2⟩, h.2⟩⟩
    · by_cases eq : a = b
      · subst eq
        by_cases hv : v = unlistedByte
        · simp only [memSet, lt, if_false, if_true, if_pos hv]
          exact memory_wfAbove_mono h.2 (by omega)
        · simp only [memSet, lt, if_false, if_true, if_neg hv, Memory.wfAbove, Bool.and_eq_true, decide_eq_true_eq,
            bne_iff_ne]
          exact ⟨⟨⟨la, ha⟩, hv⟩, h.2⟩
      · simp only [memSet, if_neg lt, if_neg eq, Memory.wfAbove, Bool.and_eq_true, decide_eq_true_eq, bne_iff_ne]
        exact ⟨h.1, ih h.2 (by omega)⟩

/-- Writing a byte keeps the canonical form. -/
theorem memSet_wf {m : Memory} {a : Nat} (h : Memory.wf m = true) (v : Byte) (ha : a < 2 ^ 32) :
    Memory.wf (memSet m a v) = true := memSet_wfAbove h v (Nat.zero_le a) ha

@[simp] theorem memStore_nil (m : Memory) : memStore m [] = m := rfl

@[simp] theorem memStore_cons (m : Memory) (c : Word × Byte) (cs : List (Word × Byte)) :
    memStore m (c :: cs) = memStore (memSet m c.1.toNat c.2) cs := rfl

/-- Writing cells keeps the canonical form. -/
theorem memStore_wf {m : Memory} (cells : List (Word × Byte)) (h : Memory.wf m = true) :
    Memory.wf (memStore m cells) = true := by
  induction cells generalizing m with
  | nil => exact h
  | cons c cs ih => exact ih (memSet_wf h c.2 c.1.isLt)

/-- Writing cells leaves every address that is none of theirs alone. -/
theorem memGet_memStore_other {m : Memory} (cells : List (Word × Byte)) (a : Word) (h : ∀ c ∈ cells, c.1 ≠ a) :
    memGet (memStore m cells) a.toNat = memGet m a.toNat := by
  induction cells generalizing m with
  | nil => rfl
  | cons c cs ih =>
    rw [memStore_cons, ih fun d hd => h d (List.mem_cons_of_mem _ hd)]
    refine memGet_memSet_other (fun e => h c List.mem_cons_self ?_) _
    exact (BitVec.eq_of_toNat_eq e).symm

/-- Two memories in canonical form above one bound with equal reads are equal. -/
theorem memory_ext_above {m n : Memory} {lo : Nat} (hm : Memory.wfAbove m lo = true) (hn : Memory.wfAbove n lo = true)
    (eq : ∀ a, memGet m a = memGet n a) : m = n := by
  induction m generalizing n lo with
  | nil =>
    cases n with
    | nil => rfl
    | cons c n =>
      obtain ⟨b, w⟩ := c
      simp only [Memory.wfAbove, Bool.and_eq_true, bne_iff_ne] at hn
      have := eq b
      simp only [memGet_nil, memGet_cons, if_true] at this
      exact absurd this.symm hn.1.2
  | cons c m ih =>
    obtain ⟨a, v⟩ := c
    simp only [Memory.wfAbove, Bool.and_eq_true, decide_eq_true_eq, bne_iff_ne] at hm
    cases n with
    | nil =>
      have := eq a
      simp only [memGet_nil, memGet_cons, if_true] at this
      exact absurd this hm.1.2
    | cons d n =>
      obtain ⟨b, w⟩ := d
      simp only [Memory.wfAbove, Bool.and_eq_true, decide_eq_true_eq, bne_iff_ne] at hn
      have ab : a = b := by
        rcases Nat.lt_trichotomy a b with lt | e | gt
        · have := eq a
          rw [memGet_cons, if_pos rfl, memGet_cons, if_neg (by omega), memGet_below hn.2 (by omega)] at this
          exact absurd this hm.1.2
        · exact e
        · have := eq b
          rw [memGet_cons, if_neg (by omega), memGet_cons, if_pos rfl, memGet_below hm.2 (by omega)] at this
          exact absurd this.symm hn.1.2
      subst ab
      have vw : v = w := by simpa using eq a
      subst vw
      congr 1
      refine ih hm.2 hn.2 fun x => ?_
      by_cases lt : x < a + 1
      · rw [memGet_below hm.2 lt, memGet_below hn.2 lt]
      · have ne : x ≠ a := by omega
        simpa [ne] using eq x

/-- The canonical form makes equal memories equal data. -/
theorem memory_ext {m n : Memory} (hm : Memory.wf m = true) (hn : Memory.wf n = true)
    (eq : ∀ a, memGet m a = memGet n a) : m = n := memory_ext_above hm hn eq

/-- The addresses of a row's cells. -/
theorem mem_rowCells {d : PlaneDesc} {x y : Nat} {vs : List Byte} {c : Word × Byte} (h : c ∈ rowCells d x y vs) :
    ∃ i, i < vs.length ∧ c.1 = sampleAddr d (x + i) y := by
  induction vs generalizing x with
  | nil => simp [rowCells] at h
  | cons v vs ih =>
    rcases List.mem_cons.mp h with e | h
    · exact ⟨0, by simp, by simp [e]⟩
    · obtain ⟨i, hi, e⟩ := ih h
      exact ⟨i + 1, by simpa using hi, by rw [e, Nat.add_assoc, Nat.add_comm 1 i]⟩

/-- The addresses of a block's cells are those of its samples. -/
theorem mem_blockCells {d : PlaneDesc} {x y n : Nat} {rows : List (List Byte)} (len : ∀ r ∈ rows, r.length = n)
    {c : Word × Byte} (h : c ∈ blockCells d x y rows) :
    ∃ i j, i < n ∧ j < rows.length ∧ c.1 = sampleAddr d (x + i) (y + j) := by
  induction rows generalizing y with
  | nil => simp [blockCells] at h
  | cons r rows ih =>
    rcases List.mem_append.mp h with h | h
    · obtain ⟨i, hi, e⟩ := mem_rowCells h
      exact ⟨i, 0, by rwa [len r List.mem_cons_self] at hi, by simp, e⟩
    · obtain ⟨i, j, hi, hj, e⟩ := ih (fun r hr => len r (List.mem_cons_of_mem _ hr)) h
      exact ⟨i, j + 1, hi, by simpa using hj, by rw [e, Nat.add_assoc y 1 j, Nat.add_comm 1 j]⟩

/-- A block store leaves every byte that is no sample of the block alone. -/
theorem storeBlock_frame (s : State) (d : PlaneDesc) (x y n : Nat) (rows : List (List Byte))
    (len : ∀ r ∈ rows, r.length = n) (a : Word)
    (out : ∀ i j, i < n → j < rows.length → a ≠ sampleAddr d (x + i) (y + j)) :
    memGet (storeBlock s d x y rows).mem a.toNat = memGet s.mem a.toNat := by
  refine memGet_memStore_other _ a fun c hc e => ?_
  obtain ⟨i, j, hi, hj, ec⟩ := mem_blockCells len hc
  exact out i j hi hj (by rw [← e, ec])

/-- A block store keeps the canonical form. -/
theorem storeBlock_wf (s : State) (d : PlaneDesc) (x y : Nat) (rows : List (List Byte)) (h : Memory.wf s.mem = true) :
    Memory.wf (storeBlock s d x y rows).mem = true := memStore_wf _ h

end Sys2Proof.Machine
end

