-- ==== Sys2Proof/Laws/State.lean ====
section
/-! SUPPORT. One lemma per field per update of the state, each true by definition, so that no later proof unfolds a
record update; and the two ends of a command. -/

namespace Sys2Proof.Machine

@[simp] theorem endCommand_none (s : State) : endCommand none s = complete s := rfl
@[simp] theorem endCommand_some (e : Raise) (s : State) : endCommand (some e) s = raiseError e s := rfl
theorem endBitCommand_eq (r : Option Raise) (s : State) : endBitCommand r s = endCommand r (noteOverread s) := rfl
@[simp] theorem beyondBuffer_noteOverread (s : State) : beyondBuffer (noteOverread s) = beyondBuffer s := rfl
@[simp] theorem fetch_eq (s : State) : fetch s = s.cmd := rfl
@[simp] theorem withRes0_eq (v : Word) (s : State) : withRes0 v s = complete { s with res0 := v } := rfl

/-! ### retire -/

@[simp] theorem retire_config (s : State) : (retire s).config = s.config := rfl
@[simp] theorem retire_busy (s : State) : (retire s).busy = false := rfl
@[simp] theorem retire_done (s : State) : (retire s).done = s.done := rfl
@[simp] theorem retire_overread (s : State) : (retire s).overread = s.overread := rfl
@[simp] theorem retire_budgetWarn (s : State) : (retire s).budgetWarn = s.budgetWarn := rfl
@[simp] theorem retire_wwb (s : State) : (retire s).wwb = s.wwb := rfl
@[simp] theorem retire_errcode (s : State) : (retire s).errcode = s.errcode := rfl
@[simp] theorem retire_irqEn (s : State) : (retire s).irqEn = s.irqEn := rfl
@[simp] theorem retire_cmd (s : State) : (retire s).cmd = s.cmd := rfl
@[simp] theorem retire_cmdCount (s : State) : (retire s).cmdCount = s.cmdCount := rfl
@[simp] theorem retire_op0 (s : State) : (retire s).op0 = s.op0 := rfl
@[simp] theorem retire_op1 (s : State) : (retire s).op1 = s.op1 := rfl
@[simp] theorem retire_op2 (s : State) : (retire s).op2 = s.op2 := rfl
@[simp] theorem retire_op3 (s : State) : (retire s).op3 = s.op3 := rfl
@[simp] theorem retire_res0 (s : State) : (retire s).res0 = s.res0 := rfl
@[simp] theorem retire_qidx (s : State) : (retire s).qidx = s.qidx := rfl
@[simp] theorem retire_errcmd (s : State) : (retire s).errcmd = s.errcmd := rfl
@[simp] theorem retire_errinfo (s : State) : (retire s).errinfo = s.errinfo := rfl
@[simp] theorem retire_bsBase (s : State) : (retire s).bsBase = s.bsBase := rfl
@[simp] theorem retire_bsLen (s : State) : (retire s).bsLen = s.bsLen := rfl
@[simp] theorem retire_bsPos (s : State) : (retire s).bsPos = s.bsPos := rfl
@[simp] theorem retire_planes (s : State) : (retire s).planes = s.planes := rfl
@[simp] theorem retire_coef (s : State) : (retire s).coef = s.coef := rfl
@[simp] theorem retire_rom (s : State) : (retire s).rom = s.rom := rfl
@[simp] theorem retire_mem (s : State) : (retire s).mem = s.mem := rfl
@[simp] theorem retire_host (s : State) : (retire s).host = s.host := rfl
@[simp] theorem retire_rdata (s : State) : (retire s).rdata = s.rdata := rfl
@[simp] theorem retire_raced (s : State) : (retire s).raced = [] := rfl
@[simp] theorem retire_draws (s : State) : (retire s).draws = s.draws := rfl

/-! ### complete -/

@[simp] theorem complete_config (s : State) : (complete s).config = s.config := rfl
@[simp] theorem complete_busy (s : State) : (complete s).busy = false := rfl
@[simp] theorem complete_done (s : State) : (complete s).done = true := rfl
@[simp] theorem complete_overread (s : State) : (complete s).overread = s.overread := rfl
@[simp] theorem complete_budgetWarn (s : State) : (complete s).budgetWarn = s.budgetWarn := rfl
@[simp] theorem complete_wwb (s : State) : (complete s).wwb = s.wwb := rfl
@[simp] theorem complete_errcode (s : State) : (complete s).errcode = s.errcode := rfl
@[simp] theorem complete_irqEn (s : State) : (complete s).irqEn = s.irqEn := rfl
@[simp] theorem complete_cmd (s : State) : (complete s).cmd = s.cmd := rfl
@[simp] theorem complete_cmdCount (s : State) : (complete s).cmdCount = s.cmdCount + 1 := rfl
@[simp] theorem complete_op0 (s : State) : (complete s).op0 = s.op0 := rfl
@[simp] theorem complete_op1 (s : State) : (complete s).op1 = s.op1 := rfl
@[simp] theorem complete_op2 (s : State) : (complete s).op2 = s.op2 := rfl
@[simp] theorem complete_op3 (s : State) : (complete s).op3 = s.op3 := rfl
@[simp] theorem complete_res0 (s : State) : (complete s).res0 = s.res0 := rfl
@[simp] theorem complete_qidx (s : State) : (complete s).qidx = s.qidx := rfl
@[simp] theorem complete_errcmd (s : State) : (complete s).errcmd = s.errcmd := rfl
@[simp] theorem complete_errinfo (s : State) : (complete s).errinfo = s.errinfo := rfl
@[simp] theorem complete_bsBase (s : State) : (complete s).bsBase = s.bsBase := rfl
@[simp] theorem complete_bsLen (s : State) : (complete s).bsLen = s.bsLen := rfl
@[simp] theorem complete_bsPos (s : State) : (complete s).bsPos = s.bsPos := rfl
@[simp] theorem complete_planes (s : State) : (complete s).planes = s.planes := rfl
@[simp] theorem complete_coef (s : State) : (complete s).coef = s.coef := rfl
@[simp] theorem complete_rom (s : State) : (complete s).rom = s.rom := rfl
@[simp] theorem complete_mem (s : State) : (complete s).mem = s.mem := rfl
@[simp] theorem complete_host (s : State) : (complete s).host = s.host := rfl
@[simp] theorem complete_rdata (s : State) : (complete s).rdata = s.rdata := rfl
@[simp] theorem complete_raced (s : State) : (complete s).raced = [] := rfl
@[simp] theorem complete_draws (s : State) : (complete s).draws = s.draws := rfl

/-! ### raiseError -/

@[simp] theorem raiseError_config (e : Raise) (s : State) : (raiseError e s).config = s.config := rfl
@[simp] theorem raiseError_busy (e : Raise) (s : State) : (raiseError e s).busy = false := rfl
@[simp] theorem raiseError_done (e : Raise) (s : State) : (raiseError e s).done = s.done := rfl
@[simp] theorem raiseError_overread (e : Raise) (s : State) : (raiseError e s).overread = s.overread := rfl
@[simp] theorem raiseError_budgetWarn (e : Raise) (s : State) : (raiseError e s).budgetWarn = s.budgetWarn := rfl
@[simp] theorem raiseError_wwb (e : Raise) (s : State) : (raiseError e s).wwb = s.wwb := rfl
@[simp] theorem raiseError_errcode (e : Raise) (s : State) : (raiseError e s).errcode = errCode e.kind := rfl
@[simp] theorem raiseError_irqEn (e : Raise) (s : State) : (raiseError e s).irqEn = s.irqEn := rfl
@[simp] theorem raiseError_cmd (e : Raise) (s : State) : (raiseError e s).cmd = s.cmd := rfl
@[simp] theorem raiseError_cmdCount (e : Raise) (s : State) : (raiseError e s).cmdCount = s.cmdCount := rfl
@[simp] theorem raiseError_op0 (e : Raise) (s : State) : (raiseError e s).op0 = s.op0 := rfl
@[simp] theorem raiseError_op1 (e : Raise) (s : State) : (raiseError e s).op1 = s.op1 := rfl
@[simp] theorem raiseError_op2 (e : Raise) (s : State) : (raiseError e s).op2 = s.op2 := rfl
@[simp] theorem raiseError_op3 (e : Raise) (s : State) : (raiseError e s).op3 = s.op3 := rfl
@[simp] theorem raiseError_res0 (e : Raise) (s : State) : (raiseError e s).res0 = s.res0 := rfl
@[simp] theorem raiseError_qidx (e : Raise) (s : State) : (raiseError e s).qidx = s.qidx := rfl
@[simp] theorem raiseError_errcmd (e : Raise) (s : State) : (raiseError e s).errcmd = s.cmd := rfl
@[simp] theorem raiseError_errinfo (e : Raise) (s : State) : (raiseError e s).errinfo = e.info := rfl
@[simp] theorem raiseError_bsBase (e : Raise) (s : State) : (raiseError e s).bsBase = s.bsBase := rfl
@[simp] theorem raiseError_bsLen (e : Raise) (s : State) : (raiseError e s).bsLen = s.bsLen := rfl
@[simp] theorem raiseError_bsPos (e : Raise) (s : State) : (raiseError e s).bsPos = s.bsPos := rfl
@[simp] theorem raiseError_planes (e : Raise) (s : State) : (raiseError e s).planes = s.planes := rfl
@[simp] theorem raiseError_coef (e : Raise) (s : State) : (raiseError e s).coef = s.coef := rfl
@[simp] theorem raiseError_rom (e : Raise) (s : State) : (raiseError e s).rom = s.rom := rfl
@[simp] theorem raiseError_mem (e : Raise) (s : State) : (raiseError e s).mem = s.mem := rfl
@[simp] theorem raiseError_host (e : Raise) (s : State) : (raiseError e s).host = s.host := rfl
@[simp] theorem raiseError_rdata (e : Raise) (s : State) : (raiseError e s).rdata = s.rdata := rfl
@[simp] theorem raiseError_raced (e : Raise) (s : State) : (raiseError e s).raced = [] := rfl
@[simp] theorem raiseError_draws (e : Raise) (s : State) : (raiseError e s).draws = s.draws := rfl

/-! ### clearError -/

@[simp] theorem clearError_config (s : State) : (clearError s).config = s.config := rfl
@[simp] theorem clearError_busy (s : State) : (clearError s).busy = s.busy := rfl
@[simp] theorem clearError_done (s : State) : (clearError s).done = s.done := rfl
@[simp] theorem clearError_overread (s : State) : (clearError s).overread = s.overread := rfl
@[simp] theorem clearError_budgetWarn (s : State) : (clearError s).budgetWarn = s.budgetWarn := rfl
@[simp] theorem clearError_wwb (s : State) : (clearError s).wwb = s.wwb := rfl
@[simp] theorem clearError_errcode (s : State) : (clearError s).errcode = 0 := rfl
@[simp] theorem clearError_irqEn (s : State) : (clearError s).irqEn = s.irqEn := rfl
@[simp] theorem clearError_cmd (s : State) : (clearError s).cmd = s.cmd := rfl
@[simp] theorem clearError_cmdCount (s : State) : (clearError s).cmdCount = s.cmdCount := rfl
@[simp] theorem clearError_op0 (s : State) : (clearError s).op0 = s.op0 := rfl
@[simp] theorem clearError_op1 (s : State) : (clearError s).op1 = s.op1 := rfl
@[simp] theorem clearError_op2 (s : State) : (clearError s).op2 = s.op2 := rfl
@[simp] theorem clearError_op3 (s : State) : (clearError s).op3 = s.op3 := rfl
@[simp] theorem clearError_res0 (s : State) : (clearError s).res0 = s.res0 := rfl
@[simp] theorem clearError_qidx (s : State) : (clearError s).qidx = s.qidx := rfl
@[simp] theorem clearError_errcmd (s : State) : (clearError s).errcmd = s.errcmd := rfl
@[simp] theorem clearError_errinfo (s : State) : (clearError s).errinfo = s.errinfo := rfl
@[simp] theorem clearError_bsBase (s : State) : (clearError s).bsBase = s.bsBase := rfl
@[simp] theorem clearError_bsLen (s : State) : (clearError s).bsLen = s.bsLen := rfl
@[simp] theorem clearError_bsPos (s : State) : (clearError s).bsPos = s.bsPos := rfl
@[simp] theorem clearError_planes (s : State) : (clearError s).planes = s.planes := rfl
@[simp] theorem clearError_coef (s : State) : (clearError s).coef = s.coef := rfl
@[simp] theorem clearError_rom (s : State) : (clearError s).rom = s.rom := rfl
@[simp] theorem clearError_mem (s : State) : (clearError s).mem = s.mem := rfl
@[simp] theorem clearError_host (s : State) : (clearError s).host = s.host := rfl
@[simp] theorem clearError_rdata (s : State) : (clearError s).rdata = s.rdata := rfl
@[simp] theorem clearError_raced (s : State) : (clearError s).raced = s.raced := rfl
@[simp] theorem clearError_draws (s : State) : (clearError s).draws = s.draws := rfl

/-! ### noteOverread -/

@[simp] theorem noteOverread_config (s : State) : (noteOverread s).config = s.config := rfl
@[simp] theorem noteOverread_busy (s : State) : (noteOverread s).busy = s.busy := rfl
@[simp] theorem noteOverread_done (s : State) : (noteOverread s).done = s.done := rfl
@[simp] theorem noteOverread_overread (s : State) : (noteOverread s).overread = (s.overread || beyondBuffer s) := rfl
@[simp] theorem noteOverread_budgetWarn (s : State) : (noteOverread s).budgetWarn = s.budgetWarn := rfl
@[simp] theorem noteOverread_wwb (s : State) : (noteOverread s).wwb = s.wwb := rfl
@[simp] theorem noteOverread_errcode (s : State) : (noteOverread s).errcode = s.errcode := rfl
@[simp] theorem noteOverread_irqEn (s : State) : (noteOverread s).irqEn = s.irqEn := rfl
@[simp] theorem noteOverread_cmd (s : State) : (noteOverread s).cmd = s.cmd := rfl
@[simp] theorem noteOverread_cmdCount (s : State) : (noteOverread s).cmdCount = s.cmdCount := rfl
@[simp] theorem noteOverread_op0 (s : State) : (noteOverread s).op0 = s.op0 := rfl
@[simp] theorem noteOverread_op1 (s : State) : (noteOverread s).op1 = s.op1 := rfl
@[simp] theorem noteOverread_op2 (s : State) : (noteOverread s).op2 = s.op2 := rfl
@[simp] theorem noteOverread_op3 (s : State) : (noteOverread s).op3 = s.op3 := rfl
@[simp] theorem noteOverread_res0 (s : State) : (noteOverread s).res0 = s.res0 := rfl
@[simp] theorem noteOverread_qidx (s : State) : (noteOverread s).qidx = s.qidx := rfl
@[simp] theorem noteOverread_errcmd (s : State) : (noteOverread s).errcmd = s.errcmd := rfl
@[simp] theorem noteOverread_errinfo (s : State) : (noteOverread s).errinfo = s.errinfo := rfl
@[simp] theorem noteOverread_bsBase (s : State) : (noteOverread s).bsBase = s.bsBase := rfl
@[simp] theorem noteOverread_bsLen (s : State) : (noteOverread s).bsLen = s.bsLen := rfl
@[simp] theorem noteOverread_bsPos (s : State) : (noteOverread s).bsPos = s.bsPos := rfl
@[simp] theorem noteOverread_planes (s : State) : (noteOverread s).planes = s.planes := rfl
@[simp] theorem noteOverread_coef (s : State) : (noteOverread s).coef = s.coef := rfl
@[simp] theorem noteOverread_rom (s : State) : (noteOverread s).rom = s.rom := rfl
@[simp] theorem noteOverread_mem (s : State) : (noteOverread s).mem = s.mem := rfl
@[simp] theorem noteOverread_host (s : State) : (noteOverread s).host = s.host := rfl
@[simp] theorem noteOverread_rdata (s : State) : (noteOverread s).rdata = s.rdata := rfl
@[simp] theorem noteOverread_raced (s : State) : (noteOverread s).raced = s.raced := rfl
@[simp] theorem noteOverread_draws (s : State) : (noteOverread s).draws = s.draws := rfl

/-! ### clearFlags -/

@[simp] theorem clearFlags_config (v : Word) (s : State) : (clearFlags v s).config = s.config := rfl
@[simp] theorem clearFlags_busy (v : Word) (s : State) : (clearFlags v s).busy = s.busy := rfl
@[simp] theorem clearFlags_done (v : Word) (s : State) : (clearFlags v s).done = (s.done && !v.getLsbD 1) := rfl
@[simp] theorem clearFlags_overread (v : Word) (s : State) : (clearFlags v s).overread = (s.overread && !v.getLsbD 3) := rfl
@[simp] theorem clearFlags_budgetWarn (v : Word) (s : State) : (clearFlags v s).budgetWarn = (s.budgetWarn && !v.getLsbD 4) := rfl
@[simp] theorem clearFlags_wwb (v : Word) (s : State) : (clearFlags v s).wwb = (s.wwb && !v.getLsbD 5) := rfl
@[simp] theorem clearFlags_errcode (v : Word) (s : State) : (clearFlags v s).errcode = s.errcode := rfl
@[simp] theorem clearFlags_irqEn (v : Word) (s : State) : (clearFlags v s).irqEn = s.irqEn := rfl
@[simp] theorem clearFlags_cmd (v : Word) (s : State) : (clearFlags v s).cmd = s.cmd := rfl
@[simp] theorem clearFlags_cmdCount (v : Word) (s : State) : (clearFlags v s).cmdCount = s.cmdCount := rfl
@[simp] theorem clearFlags_op0 (v : Word) (s : State) : (clearFlags v s).op0 = s.op0 := rfl
@[simp] theorem clearFlags_op1 (v : Word) (s : State) : (clearFlags v s).op1 = s.op1 := rfl
@[simp] theorem clearFlags_op2 (v : Word) (s : State) : (clearFlags v s).op2 = s.op2 := rfl
@[simp] theorem clearFlags_op3 (v : Word) (s : State) : (clearFlags v s).op3 = s.op3 := rfl
@[simp] theorem clearFlags_res0 (v : Word) (s : State) : (clearFlags v s).res0 = s.res0 := rfl
@[simp] theorem clearFlags_qidx (v : Word) (s : State) : (clearFlags v s).qidx = s.qidx := rfl
@[simp] theorem clearFlags_errcmd (v : Word) (s : State) : (clearFlags v s).errcmd = s.errcmd := rfl
@[simp] theorem clearFlags_errinfo (v : Word) (s : State) : (clearFlags v s).errinfo = s.errinfo := rfl
@[simp] theorem clearFlags_bsBase (v : Word) (s : State) : (clearFlags v s).bsBase = s.bsBase := rfl
@[simp] theorem clearFlags_bsLen (v : Word) (s : State) : (clearFlags v s).bsLen = s.bsLen := rfl
@[simp] theorem clearFlags_bsPos (v : Word) (s : State) : (clearFlags v s).bsPos = s.bsPos := rfl
@[simp] theorem clearFlags_planes (v : Word) (s : State) : (clearFlags v s).planes = s.planes := rfl
@[simp] theorem clearFlags_coef (v : Word) (s : State) : (clearFlags v s).coef = s.coef := rfl
@[simp] theorem clearFlags_rom (v : Word) (s : State) : (clearFlags v s).rom = s.rom := rfl
@[simp] theorem clearFlags_mem (v : Word) (s : State) : (clearFlags v s).mem = s.mem := rfl
@[simp] theorem clearFlags_host (v : Word) (s : State) : (clearFlags v s).host = s.host := rfl
@[simp] theorem clearFlags_rdata (v : Word) (s : State) : (clearFlags v s).rdata = s.rdata := rfl
@[simp] theorem clearFlags_raced (v : Word) (s : State) : (clearFlags v s).raced = s.raced := rfl
@[simp] theorem clearFlags_draws (v : Word) (s : State) : (clearFlags v s).draws = s.draws := rfl

/-! ### storeBlock -/

@[simp] theorem storeBlock_config (s : State) (d : PlaneDesc) (x y : Nat) (rows : List (List Byte)) : (storeBlock s d x y rows).config = s.config := rfl
@[simp] theorem storeBlock_busy (s : State) (d : PlaneDesc) (x y : Nat) (rows : List (List Byte)) : (storeBlock s d x y rows).busy = s.busy := rfl
@[simp] theorem storeBlock_done (s : State) (d : PlaneDesc) (x y : Nat) (rows : List (List Byte)) : (storeBlock s d x y rows).done = s.done := rfl
@[simp] theorem storeBlock_overread (s : State) (d : PlaneDesc) (x y : Nat) (rows : List (List Byte)) : (storeBlock s d x y rows).overread = s.overread := rfl
@[simp] theorem storeBlock_budgetWarn (s : State) (d : PlaneDesc) (x y : Nat) (rows : List (List Byte)) : (storeBlock s d x y rows).budgetWarn = s.budgetWarn := rfl
@[simp] theorem storeBlock_wwb (s : State) (d : PlaneDesc) (x y : Nat) (rows : List (List Byte)) : (storeBlock s d x y rows).wwb = s.wwb := rfl
@[simp] theorem storeBlock_errcode (s : State) (d : PlaneDesc) (x y : Nat) (rows : List (List Byte)) : (storeBlock s d x y rows).errcode = s.errcode := rfl
@[simp] theorem storeBlock_irqEn (s : State) (d : PlaneDesc) (x y : Nat) (rows : List (List Byte)) : (storeBlock s d x y rows).irqEn = s.irqEn := rfl
@[simp] theorem storeBlock_cmd (s : State) (d : PlaneDesc) (x y : Nat) (rows : List (List Byte)) : (storeBlock s d x y rows).cmd = s.cmd := rfl
@[simp] theorem storeBlock_cmdCount (s : State) (d : PlaneDesc) (x y : Nat) (rows : List (List Byte)) : (storeBlock s d x y rows).cmdCount = s.cmdCount := rfl
@[simp] theorem storeBlock_op0 (s : State) (d : PlaneDesc) (x y : Nat) (rows : List (List Byte)) : (storeBlock s d x y rows).op0 = s.op0 := rfl
@[simp] theorem storeBlock_op1 (s : State) (d : PlaneDesc) (x y : Nat) (rows : List (List Byte)) : (storeBlock s d x y rows).op1 = s.op1 := rfl
@[simp] theorem storeBlock_op2 (s : State) (d : PlaneDesc) (x y : Nat) (rows : List (List Byte)) : (storeBlock s d x y rows).op2 = s.op2 := rfl
@[simp] theorem storeBlock_op3 (s : State) (d : PlaneDesc) (x y : Nat) (rows : List (List Byte)) : (storeBlock s d x y rows).op3 = s.op3 := rfl
@[simp] theorem storeBlock_res0 (s : State) (d : PlaneDesc) (x y : Nat) (rows : List (List Byte)) : (storeBlock s d x y rows).res0 = s.res0 := rfl
@[simp] theorem storeBlock_qidx (s : State) (d : PlaneDesc) (x y : Nat) (rows : List (List Byte)) : (storeBlock s d x y rows).qidx = s.qidx := rfl
@[simp] theorem storeBlock_errcmd (s : State) (d : PlaneDesc) (x y : Nat) (rows : List (List Byte)) : (storeBlock s d x y rows).errcmd = s.errcmd := rfl
@[simp] theorem storeBlock_errinfo (s : State) (d : PlaneDesc) (x y : Nat) (rows : List (List Byte)) : (storeBlock s d x y rows).errinfo = s.errinfo := rfl
@[simp] theorem storeBlock_bsBase (s : State) (d : PlaneDesc) (x y : Nat) (rows : List (List Byte)) : (storeBlock s d x y rows).bsBase = s.bsBase := rfl
@[simp] theorem storeBlock_bsLen (s : State) (d : PlaneDesc) (x y : Nat) (rows : List (List Byte)) : (storeBlock s d x y rows).bsLen = s.bsLen := rfl
@[simp] theorem storeBlock_bsPos (s : State) (d : PlaneDesc) (x y : Nat) (rows : List (List Byte)) : (storeBlock s d x y rows).bsPos = s.bsPos := rfl
@[simp] theorem storeBlock_planes (s : State) (d : PlaneDesc) (x y : Nat) (rows : List (List Byte)) : (storeBlock s d x y rows).planes = s.planes := rfl
@[simp] theorem storeBlock_coef (s : State) (d : PlaneDesc) (x y : Nat) (rows : List (List Byte)) : (storeBlock s d x y rows).coef = s.coef := rfl
@[simp] theorem storeBlock_rom (s : State) (d : PlaneDesc) (x y : Nat) (rows : List (List Byte)) : (storeBlock s d x y rows).rom = s.rom := rfl
@[simp] theorem storeBlock_mem (s : State) (d : PlaneDesc) (x y : Nat) (rows : List (List Byte)) : (storeBlock s d x y rows).mem = memStore s.mem (blockCells d x y rows) := rfl
@[simp] theorem storeBlock_host (s : State) (d : PlaneDesc) (x y : Nat) (rows : List (List Byte)) : (storeBlock s d x y rows).host = s.host := rfl
@[simp] theorem storeBlock_rdata (s : State) (d : PlaneDesc) (x y : Nat) (rows : List (List Byte)) : (storeBlock s d x y rows).rdata = s.rdata := rfl
@[simp] theorem storeBlock_raced (s : State) (d : PlaneDesc) (x y : Nat) (rows : List (List Byte)) : (storeBlock s d x y rows).raced = s.raced := rfl
@[simp] theorem storeBlock_draws (s : State) (d : PlaneDesc) (x y : Nat) (rows : List (List Byte)) : (storeBlock s d x y rows).draws = s.draws := rfl

/-! ### setPlane -/

@[simp] theorem setPlane_config (s : State) (b : Bool) (p : Plane) (d : PlaneDesc) : (setPlane s b p d).config = s.config := rfl
@[simp] theorem setPlane_busy (s : State) (b : Bool) (p : Plane) (d : PlaneDesc) : (setPlane s b p d).busy = s.busy := rfl
@[simp] theorem setPlane_done (s : State) (b : Bool) (p : Plane) (d : PlaneDesc) : (setPlane s b p d).done = s.done := rfl
@[simp] theorem setPlane_overread (s : State) (b : Bool) (p : Plane) (d : PlaneDesc) : (setPlane s b p d).overread = s.overread := rfl
@[simp] theorem setPlane_budgetWarn (s : State) (b : Bool) (p : Plane) (d : PlaneDesc) : (setPlane s b p d).budgetWarn = s.budgetWarn := rfl
@[simp] theorem setPlane_wwb (s : State) (b : Bool) (p : Plane) (d : PlaneDesc) : (setPlane s b p d).wwb = s.wwb := rfl
@[simp] theorem setPlane_errcode (s : State) (b : Bool) (p : Plane) (d : PlaneDesc) : (setPlane s b p d).errcode = s.errcode := rfl
@[simp] theorem setPlane_irqEn (s : State) (b : Bool) (p : Plane) (d : PlaneDesc) : (setPlane s b p d).irqEn = s.irqEn := rfl
@[simp] theorem setPlane_cmd (s : State) (b : Bool) (p : Plane) (d : PlaneDesc) : (setPlane s b p d).cmd = s.cmd := rfl
@[simp] theorem setPlane_cmdCount (s : State) (b : Bool) (p : Plane) (d : PlaneDesc) : (setPlane s b p d).cmdCount = s.cmdCount := rfl
@[simp] theorem setPlane_op0 (s : State) (b : Bool) (p : Plane) (d : PlaneDesc) : (setPlane s b p d).op0 = s.op0 := rfl
@[simp] theorem setPlane_op1 (s : State) (b : Bool) (p : Plane) (d : PlaneDesc) : (setPlane s b p d).op1 = s.op1 := rfl
@[simp] theorem setPlane_op2 (s : State) (b : Bool) (p : Plane) (d : PlaneDesc) : (setPlane s b p d).op2 = s.op2 := rfl
@[simp] theorem setPlane_op3 (s : State) (b : Bool) (p : Plane) (d : PlaneDesc) : (setPlane s b p d).op3 = s.op3 := rfl
@[simp] theorem setPlane_res0 (s : State) (b : Bool) (p : Plane) (d : PlaneDesc) : (setPlane s b p d).res0 = s.res0 := rfl
@[simp] theorem setPlane_qidx (s : State) (b : Bool) (p : Plane) (d : PlaneDesc) : (setPlane s b p d).qidx = s.qidx := rfl
@[simp] theorem setPlane_errcmd (s : State) (b : Bool) (p : Plane) (d : PlaneDesc) : (setPlane s b p d).errcmd = s.errcmd := rfl
@[simp] theorem setPlane_errinfo (s : State) (b : Bool) (p : Plane) (d : PlaneDesc) : (setPlane s b p d).errinfo = s.errinfo := rfl
@[simp] theorem setPlane_bsBase (s : State) (b : Bool) (p : Plane) (d : PlaneDesc) : (setPlane s b p d).bsBase = s.bsBase := rfl
@[simp] theorem setPlane_bsLen (s : State) (b : Bool) (p : Plane) (d : PlaneDesc) : (setPlane s b p d).bsLen = s.bsLen := rfl
@[simp] theorem setPlane_bsPos (s : State) (b : Bool) (p : Plane) (d : PlaneDesc) : (setPlane s b p d).bsPos = s.bsPos := rfl
@[simp] theorem setPlane_planes (s : State) (b : Bool) (p : Plane) (d : PlaneDesc) : (setPlane s b p d).planes = s.planes.set (planeIndex b p) d := rfl
@[simp] theorem setPlane_coef (s : State) (b : Bool) (p : Plane) (d : PlaneDesc) : (setPlane s b p d).coef = s.coef := rfl
@[simp] theorem setPlane_rom (s : State) (b : Bool) (p : Plane) (d : PlaneDesc) : (setPlane s b p d).rom = s.rom := rfl
@[simp] theorem setPlane_mem (s : State) (b : Bool) (p : Plane) (d : PlaneDesc) : (setPlane s b p d).mem = s.mem := rfl
@[simp] theorem setPlane_host (s : State) (b : Bool) (p : Plane) (d : PlaneDesc) : (setPlane s b p d).host = s.host := rfl
@[simp] theorem setPlane_rdata (s : State) (b : Bool) (p : Plane) (d : PlaneDesc) : (setPlane s b p d).rdata = s.rdata := rfl
@[simp] theorem setPlane_raced (s : State) (b : Bool) (p : Plane) (d : PlaneDesc) : (setPlane s b p d).raced = s.raced := rfl
@[simp] theorem setPlane_draws (s : State) (b : Bool) (p : Plane) (d : PlaneDesc) : (setPlane s b p d).draws = s.draws := rfl

/-! ### hostMemWrite -/

@[simp] theorem hostMemWrite_config (s : State) (a : Word) (b : Byte) : (hostMemWrite s a b).config = s.config := rfl
@[simp] theorem hostMemWrite_busy (s : State) (a : Word) (b : Byte) : (hostMemWrite s a b).busy = s.busy := rfl
@[simp] theorem hostMemWrite_done (s : State) (a : Word) (b : Byte) : (hostMemWrite s a b).done = s.done := rfl
@[simp] theorem hostMemWrite_overread (s : State) (a : Word) (b : Byte) : (hostMemWrite s a b).overread = s.overread := rfl
@[simp] theorem hostMemWrite_budgetWarn (s : State) (a : Word) (b : Byte) : (hostMemWrite s a b).budgetWarn = s.budgetWarn := rfl
@[simp] theorem hostMemWrite_wwb (s : State) (a : Word) (b : Byte) : (hostMemWrite s a b).wwb = s.wwb := rfl
@[simp] theorem hostMemWrite_errcode (s : State) (a : Word) (b : Byte) : (hostMemWrite s a b).errcode = s.errcode := rfl
@[simp] theorem hostMemWrite_irqEn (s : State) (a : Word) (b : Byte) : (hostMemWrite s a b).irqEn = s.irqEn := rfl
@[simp] theorem hostMemWrite_cmd (s : State) (a : Word) (b : Byte) : (hostMemWrite s a b).cmd = s.cmd := rfl
@[simp] theorem hostMemWrite_cmdCount (s : State) (a : Word) (b : Byte) : (hostMemWrite s a b).cmdCount = s.cmdCount := rfl
@[simp] theorem hostMemWrite_op0 (s : State) (a : Word) (b : Byte) : (hostMemWrite s a b).op0 = s.op0 := rfl
@[simp] theorem hostMemWrite_op1 (s : State) (a : Word) (b : Byte) : (hostMemWrite s a b).op1 = s.op1 := rfl
@[simp] theorem hostMemWrite_op2 (s : State) (a : Word) (b : Byte) : (hostMemWrite s a b).op2 = s.op2 := rfl
@[simp] theorem hostMemWrite_op3 (s : State) (a : Word) (b : Byte) : (hostMemWrite s a b).op3 = s.op3 := rfl
@[simp] theorem hostMemWrite_res0 (s : State) (a : Word) (b : Byte) : (hostMemWrite s a b).res0 = s.res0 := rfl
@[simp] theorem hostMemWrite_qidx (s : State) (a : Word) (b : Byte) : (hostMemWrite s a b).qidx = s.qidx := rfl
@[simp] theorem hostMemWrite_errcmd (s : State) (a : Word) (b : Byte) : (hostMemWrite s a b).errcmd = s.errcmd := rfl
@[simp] theorem hostMemWrite_errinfo (s : State) (a : Word) (b : Byte) : (hostMemWrite s a b).errinfo = s.errinfo := rfl
@[simp] theorem hostMemWrite_bsBase (s : State) (a : Word) (b : Byte) : (hostMemWrite s a b).bsBase = s.bsBase := rfl
@[simp] theorem hostMemWrite_bsLen (s : State) (a : Word) (b : Byte) : (hostMemWrite s a b).bsLen = s.bsLen := rfl
@[simp] theorem hostMemWrite_bsPos (s : State) (a : Word) (b : Byte) : (hostMemWrite s a b).bsPos = s.bsPos := rfl
@[simp] theorem hostMemWrite_planes (s : State) (a : Word) (b : Byte) : (hostMemWrite s a b).planes = s.planes := rfl
@[simp] theorem hostMemWrite_coef (s : State) (a : Word) (b : Byte) : (hostMemWrite s a b).coef = s.coef := rfl
@[simp] theorem hostMemWrite_rom (s : State) (a : Word) (b : Byte) : (hostMemWrite s a b).rom = s.rom := rfl
@[simp] theorem hostMemWrite_mem (s : State) (a : Word) (b : Byte) : (hostMemWrite s a b).mem = memSet s.mem a.toNat b := rfl
@[simp] theorem hostMemWrite_host (s : State) (a : Word) (b : Byte) : (hostMemWrite s a b).host = s.host := rfl
@[simp] theorem hostMemWrite_rdata (s : State) (a : Word) (b : Byte) : (hostMemWrite s a b).rdata = s.rdata := rfl
@[simp] theorem hostMemWrite_raced (s : State) (a : Word) (b : Byte) : (hostMemWrite s a b).raced = s.raced := rfl
@[simp] theorem hostMemWrite_draws (s : State) (a : Word) (b : Byte) : (hostMemWrite s a b).draws = s.draws := rfl

/-! ### endCommand: what both ends of a command leave -/

@[simp] theorem endCommand_config (r : Option Raise) (s : State) : (endCommand r s).config = s.config := by cases r <;> rfl
@[simp] theorem endCommand_overread (r : Option Raise) (s : State) : (endCommand r s).overread = s.overread := by cases r <;> rfl
@[simp] theorem endCommand_budgetWarn (r : Option Raise) (s : State) : (endCommand r s).budgetWarn = s.budgetWarn := by cases r <;> rfl
@[simp] theorem endCommand_wwb (r : Option Raise) (s : State) : (endCommand r s).wwb = s.wwb := by cases r <;> rfl
@[simp] theorem endCommand_irqEn (r : Option Raise) (s : State) : (endCommand r s).irqEn = s.irqEn := by cases r <;> rfl
@[simp] theorem endCommand_cmd (r : Option Raise) (s : State) : (endCommand r s).cmd = s.cmd := by cases r <;> rfl
@[simp] theorem endCommand_op0 (r : Option Raise) (s : State) : (endCommand r s).op0 = s.op0 := by cases r <;> rfl
@[simp] theorem endCommand_op1 (r : Option Raise) (s : State) : (endCommand r s).op1 = s.op1 := by cases r <;> rfl
@[simp] theorem endCommand_op2 (r : Option Raise) (s : State) : (endCommand r s).op2 = s.op2 := by cases r <;> rfl
@[simp] theorem endCommand_op3 (r : Option Raise) (s : State) : (endCommand r s).op3 = s.op3 := by cases r <;> rfl
@[simp] theorem endCommand_res0 (r : Option Raise) (s : State) : (endCommand r s).res0 = s.res0 := by cases r <;> rfl
@[simp] theorem endCommand_qidx (r : Option Raise) (s : State) : (endCommand r s).qidx = s.qidx := by cases r <;> rfl
@[simp] theorem endCommand_bsBase (r : Option Raise) (s : State) : (endCommand r s).bsBase = s.bsBase := by cases r <;> rfl
@[simp] theorem endCommand_bsLen (r : Option Raise) (s : State) : (endCommand r s).bsLen = s.bsLen := by cases r <;> rfl
@[simp] theorem endCommand_bsPos (r : Option Raise) (s : State) : (endCommand r s).bsPos = s.bsPos := by cases r <;> rfl
@[simp] theorem endCommand_planes (r : Option Raise) (s : State) : (endCommand r s).planes = s.planes := by cases r <;> rfl
@[simp] theorem endCommand_coef (r : Option Raise) (s : State) : (endCommand r s).coef = s.coef := by cases r <;> rfl
@[simp] theorem endCommand_rom (r : Option Raise) (s : State) : (endCommand r s).rom = s.rom := by cases r <;> rfl
@[simp] theorem endCommand_mem (r : Option Raise) (s : State) : (endCommand r s).mem = s.mem := by cases r <;> rfl
@[simp] theorem endCommand_host (r : Option Raise) (s : State) : (endCommand r s).host = s.host := by cases r <;> rfl
@[simp] theorem endCommand_rdata (r : Option Raise) (s : State) : (endCommand r s).rdata = s.rdata := by cases r <;> rfl
@[simp] theorem endCommand_draws (r : Option Raise) (s : State) : (endCommand r s).draws = s.draws := by cases r <;> rfl
@[simp] theorem endCommand_busy (r : Option Raise) (s : State) : (endCommand r s).busy = false := by cases r <;> rfl
@[simp] theorem endCommand_raced (r : Option Raise) (s : State) : (endCommand r s).raced = [] := by cases r <;> rfl

end Sys2Proof.Machine
end

