-- ==== Sys2Proof/Laws/Ops.lean ====
section
/-! SUPPORT. One lemma per shared operation that says once everything it can do: proofs cite these instead of unfolding
the operation. -/

namespace Sys2Proof.Machine

/-! ## The bitstream -/

/-- n peeked bits are a number below 2^n. -/
theorem peekFrom_lt (s : State) (pos n : Nat) : peekFrom s pos n < 2 ^ n := by
  induction n with
  | zero => simp [peekFrom]
  | succ n ih =>
    have : (bitAt s (pos + n)).toNat * 2 ^ n ≤ 2 ^ n := by cases bitAt s (pos + n) <;> simp
    rw [peekFrom, Nat.pow_succ]
    omega

/-- Fewer peeked bits are the low bits of more (40_bitreader_vlc.md R101). -/
theorem peekFrom_mod (s : State) (pos : Nat) {m n : Nat} (le : m ≤ n) : peekFrom s pos n % 2 ^ m = peekFrom s pos m := by
  induction n with
  | zero =>
    obtain rfl : m = 0 := by omega
    rfl
  | succ n ih =>
    rcases Nat.lt_or_ge n m with lt | ge
    · obtain rfl : m = n + 1 := by omega
      exact Nat.mod_eq_of_lt (peekFrom_lt s pos _)
    · obtain ⟨k, rfl⟩ := Nat.exists_eq_add_of_le ge
      rw [peekFrom, Nat.pow_add, Nat.add_mod, Nat.mul_comm (2 ^ m), ← Nat.mul_assoc, Nat.mul_mod_left, Nat.add_zero,
        Nat.mod_mod]
      exact ih (by omega)

/-- With no raced byte a command reads what memory holds. -/
theorem busRead_of_raced_nil {s : State} (h : s.raced = []) (a : Word) : busRead s a = memGet s.mem a.toNat := by
  simp [busRead, racedBytes, h]

/-! ## VLC decoding -/

/-- Everything decoding one symbol can answer (40_bitreader_vlc.md R109, R110). -/
theorem vlcSymbol_cases (s : State) (pos : BitVec 64) (t : Option (List VlcEntry)) :
    (t = none ∧ vlcSymbol s pos t = .error ⟨.illegal, 0⟩) ∨
    (∃ l, t = some l ∧ vlcMatch s pos l = none ∧ vlcSymbol s pos t = .error ⟨.vlc, pos.setWidth 32⟩) ∨
    (∃ l e, t = some l ∧ vlcMatch s pos l = some e ∧ vlcSymbol s pos t = .ok (e.sym, advance pos e.len)) := by
  cases t with
  | none => exact .inl ⟨rfl, rfl⟩
  | some l =>
    cases h : vlcMatch s pos l with
    | none => exact .inr (.inl ⟨l, rfl, h, by simp [vlcSymbol, h]⟩)
    | some e => exact .inr (.inr ⟨l, e, rfl, h, by simp [vlcSymbol, h]⟩)

/-- A matched entry is in the table and its code is the next bits. -/
theorem vlcMatch_some {s : State} {pos : BitVec 64} {l : List VlcEntry} {e : VlcEntry} (h : vlcMatch s pos l = some e) :
    e ∈ l ∧ peekBits s pos e.len = e.code :=
  ⟨List.mem_of_find?_eq_some h, by simpa using List.find?_some h⟩

/-! ## DC_TO_COEF -/

/-- With tables that meet their constraints, DC_TO_COEF has the property R150 states of it, at listed and unlisted points. -/
theorem dcCoefValue_about {r : Rom} (h : r.ok = true) (p : Profile) (d : Word) :
    dcToCoefOk p d (dcCoefValue r p d) = true := by
  have points : (romProf r p).dcCoefPoints.all (fun e => dcToCoefOk p e.d e.value) = true := by
    simp only [Rom.ok, ProfileRom.ok, Bool.and_eq_true] at h
    cases p
    · exact h.1.2
    · exact h.2.2
  unfold dcCoefValue
  split
  · rename_i e found
    have eq : e.d = d := by simpa using List.find?_some found
    exact eq ▸ List.all_eq_true.mp points e (List.mem_of_find?_eq_some found)
  · exact Config.dcToCoef.ok p d

/-! ## Commands -/

/-- Everything AC_DECODE can do (41_coef_dequant.md R147): refuse the index, or leave the loop's cursor and file. -/
theorem acDecodeWith_cases (b : Bool) (c : PlaneClass) (k : CodingClass) (s : State) :
    (qidxOutOfRange s = true ∧ acDecodeWith b c k s = endBitCommand (some ⟨.qrange, s.qidx⟩) s) ∨
    (qidxOutOfRange s = false ∧ ∃ r e, acLoop s c k b 64 (acStart s) = (r, e) ∧
      acDecodeWith b c k s = endBitCommand e { s with bsPos := r.pos, coef := r.coef }) := by
  cases h : qidxOutOfRange s
  · exact .inr ⟨rfl, (acLoop s c k b 64 (acStart s)).1, (acLoop s c k b 64 (acStart s)).2, Prod.mk.eta.symm,
      if_neg (by simp [h])⟩
  · exact .inl ⟨rfl, by simp [acDecodeWith, h]⟩

/-- Everything a transform command can do (42_idct.md R191, R192). -/
theorem idctCommand_cases (mode : StoreMode) (p : Plane) (repos : Bool) (blk : BitVec 4) (s : State) :
    (idctCommand mode p repos blk s = raiseError ⟨.dst, 0⟩ s) ∨
    (∃ e, residual mode s = .error e ∧ idctCommand mode p repos blk s = raiseError e s) ∨
    (∃ r, residual mode s = .ok r ∧ idctCommand mode p repos blk s =
      complete (storeBlock s (s.plane s.outBank p) (destPos s repos blk).1 (destPos s repos blk).2
        (blockRows (pixels mode s (s.plane s.outBank p) (destPos s repos blk).1 (destPos s repos blk).2 r)))) := by
  cases h : blockInside (s.plane s.outBank p) (destPos s repos blk).1 (destPos s repos blk).2 8
  · exact .inl (by simp [idctCommand, h])
  · cases hr : residual mode s with
    | error e => exact .inr (.inl ⟨e, rfl, by simp [idctCommand, h, hr]⟩)
    | ok r => exact .inr (.inr ⟨r, rfl, by simp [idctCommand, h, hr]⟩)

/-- Everything a motion compensation command can do (43_motion_comp.md R216 to R218). -/
theorem mcCommand_cases (n f : Nat) (rs : AxisPos → Int × Int)
    (pred : (Int → Int → Int) → AxisPos → AxisPos → Int → Int → Int) (p : Plane) (s : State) :
    (mcCommand n f rs pred p s = raiseError ⟨.noref, 0⟩ s) ∨
    (mcCommand n f rs pred p s = raiseError ⟨.dst, 0⟩ s) ∨
    (mcCommand n f rs pred p s = complete s) ∨
    (mcCommand n f rs pred p s = complete (storeBlock s (s.plane s.outBank p) (unsigned s.op0) (unsigned s.op1)
      (predRows n (pred (refSample s (s.plane s.refBank p)) (axisPos s.op0 s.op2 f) (axisPos s.op1 s.op3 f))))) := by
  cases hr : s.refValid
  · exact .inl (by simp [mcCommand, hr])
  · cases hd : blockInside (s.plane s.outBank p) (unsigned s.op0) (unsigned s.op1) n
    · exact .inr (.inl (by simp [mcCommand, hr, hd]))
    · cases hw : windowInside (s.plane s.refBank p) (rs (axisPos s.op0 s.op2 f)) (rs (axisPos s.op1 s.op3 f))
      · exact .inr (.inr (.inl (by simp [mcCommand, hr, hd, hw])))
      · exact .inr (.inr (.inr (by simp [mcCommand, hr, hd, hw])))

/-- The rows of a predicted block have the block's size. -/
theorem predRows_shape (n : Nat) (pred : Int → Int → Int) :
    (predRows n pred).length = n ∧ ∀ r ∈ predRows n pred, r.length = n := by
  refine ⟨by simp [predRows], fun r hr => ?_⟩
  obtain ⟨j, -, rfl⟩ := List.mem_map.mp hr
  simp

/-- The rows of an 8x8 block have eight entries. -/
theorem blockRows_shape {α : Type} (b : Block α) : (blockRows b).length = 8 ∧ ∀ r ∈ blockRows b, r.length = 8 := by
  refine ⟨rfl, fun r hr => ?_⟩
  obtain ⟨o, -, rfl⟩ := List.mem_map.mp hr
  rfl

/-! ## The step -/

/-- Everything a step can do: the engine runs the pending word, or the host acts, or nothing is left to do. -/
theorem step_cases (s : State) :
    (s.busy = true ∧ engineTurn s.host = true ∧ step s = runWord s.cmd s) ∨
    (s.busy = true ∧ ∃ act rest, s.host = act :: rest ∧ act ≠ .wait ∧
      step s = .next (hostBusy act (afterCommand s) { s with host := rest })) ∨
    (s.busy = false ∧ ∃ act rest, s.host = act :: rest ∧ step s = .next (hostIdle act { s with host := rest })) ∨
    (s.busy = false ∧ s.host = [] ∧ step s = .next s) := by
  cases hb : s.busy
  · cases hh : s.host with
    | nil => exact .inr (.inr (.inr ⟨rfl, rfl, by simp [step, stepOnce, hostTurn, hb, hh]⟩))
    | cons act rest => exact .inr (.inr (.inl ⟨rfl, act, rest, rfl, by simp [step, stepOnce, hostTurn, hb, hh]⟩))
  · cases he : engineTurn s.host
    · cases hh : s.host with
      | nil => simp [hh, engineTurn] at he
      | cons act rest =>
        refine .inr (.inl ⟨rfl, act, rest, rfl, ?_, by rw [step, stepOnce, hb, he]; simp [hostTurn, hb, hh]⟩)
        rintro rfl
        simp [hh, engineTurn] at he
    · exact .inl ⟨rfl, rfl, by simp [step, stepOnce, hb, he]⟩

/-- Running a word is running its command, or E_ILLEGAL (30_encoding.md R89). -/
theorem runWord_cases (w : Word) (s : State) :
    (∃ i, decodeWord w = .ok i ∧ runWord w s = exec i s) ∨
    (∃ e, decodeWord w = .error e ∧ runWord w s = .next (raiseIllegal s)) := by
  cases h : decodeWord w with
  | ok i => exact .inl ⟨i, rfl, by simp [runWord, h]⟩
  | error e => exact .inr ⟨e, rfl, by simp [runWord, h]⟩

end Sys2Proof.Machine
end

