-- ==== Sys2Proof/Laws/PerInstr.lean ====
section
/-! SUPPORT. The per-instruction family `EncodedRow`: the encoded word of a command has the fixed bits of its row of the
opcode map (30_encoding.md R88), for every value of its fields. -/

namespace Sys2Proof.Laws

/-- The match and mask of a command's row (30_encoding.md R88). -/
def rowBits : Instr → Word × Word
  | .nop => (0x00000000, 0xFFFFFFFF)
  | .brRead _ => (0x00000001, 0xFFFFC0FF)
  | .brSkip => (0x00000002, 0xFFFFFFFF)
  | .brAlign => (0x00000003, 0xFFFFFFFF)
  | .brSign => (0x00000004, 0xFFFFFFFF)
  | .brRealign => (0x00000005, 0xFFFFFFFF)
  | .vlcDec _ => (0x00000008, 0xFFFFF0FF)
  | .qset => (0x00000010, 0xFFFFFFFF)
  | .acDecode _ _ => (0x00000011, 0xFFFFFCFF)
  | .coefClear => (0x00000012, 0xFFFFFFFF)
  | .dcDequant => (0x00000013, 0xFFFFFFFF)
  | .dcInsert => (0x00000014, 0xFFFFFFFF)
  | .dcSeed _ => (0x00000018, 0xFFFFFEFF)
  | .dcClamp _ => (0x00000019, 0xFFFFFEFF)
  | .dcMpred _ => (0x0000001A, 0xFFFFFEFF)
  | .dcMpred2 _ => (0x0000001B, 0xFFFFFEFF)
  | .midPred => (0x0000001C, 0xFFFFFFFF)
  | .idctPut _ _ _ => (0x00000020, 0xFFFF04FF)
  | .idctAdd _ _ _ => (0x00000420, 0xFFFF04FF)
  | .mcL _ => (0x00000028, 0xFFFFFCFF)
  | .mcC _ => (0x00000029, 0xFFFFFCFF)
  | .swapRef => (0x00000030, 0xFFFFFFFF)

/-- The encoded word has its row's fixed bits. -/
@[reducible] def EncodedRow.Statement (i : Instr) : Prop := encode i &&& (rowBits i).2 = (rowBits i).1

theorem EncodedRow.nop : EncodedRow.Statement .nop := by decide
theorem EncodedRow.brRead (n : BitVec 6) : EncodedRow.Statement (.brRead n) := by
  revert n; unfold EncodedRow.Statement; decide
theorem EncodedRow.brSkip : EncodedRow.Statement .brSkip := by decide
theorem EncodedRow.brAlign : EncodedRow.Statement .brAlign := by decide
theorem EncodedRow.brSign : EncodedRow.Statement .brSign := by decide
theorem EncodedRow.brRealign : EncodedRow.Statement .brRealign := by decide
theorem EncodedRow.vlcDec (tid : BitVec 4) : EncodedRow.Statement (.vlcDec tid) := by
  revert tid; unfold EncodedRow.Statement; decide
theorem EncodedRow.qset : EncodedRow.Statement .qset := by decide
theorem EncodedRow.acDecode (c : PlaneClass) (k : CodingClass) : EncodedRow.Statement (.acDecode c k) := by
  cases c <;> cases k <;> decide
theorem EncodedRow.coefClear : EncodedRow.Statement .coefClear := by decide
theorem EncodedRow.dcDequant : EncodedRow.Statement .dcDequant := by decide
theorem EncodedRow.dcInsert : EncodedRow.Statement .dcInsert := by decide
theorem EncodedRow.dcSeed (k : CodingClass) : EncodedRow.Statement (.dcSeed k) := by cases k <;> decide
theorem EncodedRow.dcClamp (k : CodingClass) : EncodedRow.Statement (.dcClamp k) := by cases k <;> decide
theorem EncodedRow.dcMpred (k : CodingClass) : EncodedRow.Statement (.dcMpred k) := by cases k <;> decide
theorem EncodedRow.dcMpred2 (k : CodingClass) : EncodedRow.Statement (.dcMpred2 k) := by cases k <;> decide
theorem EncodedRow.midPred : EncodedRow.Statement .midPred := by decide
theorem EncodedRow.idctPut (p : Plane) (repos : Bool) (blk : BitVec 4) : EncodedRow.Statement (.idctPut p repos blk) := by
  cases p <;> cases repos <;> revert blk <;> unfold EncodedRow.Statement <;> decide
theorem EncodedRow.idctAdd (p : Plane) (repos : Bool) (blk : BitVec 4) : EncodedRow.Statement (.idctAdd p repos blk) := by
  cases p <;> cases repos <;> revert blk <;> unfold EncodedRow.Statement <;> decide
theorem EncodedRow.mcL (p : Plane) : EncodedRow.Statement (.mcL p) := by cases p <;> decide
theorem EncodedRow.mcC (p : Plane) : EncodedRow.Statement (.mcC p) := by cases p <;> decide
theorem EncodedRow.swapRef : EncodedRow.Statement .swapRef := by decide

end Sys2Proof.Laws
end

