-- ==== Sys2Proof/Machine/HostProgram.lean ====
section
/-! DEFINITION. The statements of a host program and the pseudo-instructions (30_encoding.md R91, R92) as the host actions
they stand for. -/

namespace Sys2Proof.Machine

/-- A statement of a host program (30_encoding.md R91, R92). Comments stand for nothing. -/
inductive HostStmt where
  /-- `wr NAME, v`. -/
  | wr (r : Reg) (v : Word)
  /-- `rd NAME`. -/
  | rd (r : Reg)
  /-- `cmd <command>`. -/
  | cmd (i : Instr)
  /-- `wait`. -/
  | wait
  /-- `<command>`: `cmd <command>`, then `wait`. -/
  | run (i : Instr)
  /-- `li OPn, v`. -/
  | li (n : Fin 4) (v : Word)
  /-- `br.bit`. -/
  | brBit
  /-- `clrerr`. -/
  | clrErr
  /-- `clrflags`. -/
  | clrFlags
  /-- `mc.copy P`. -/
  | mcCopy (p : Plane)
  /-- `mc.copyc P`. -/
  | mcCopyC (p : Plane)
  /-- `blk X, Y`. -/
  | blk (x y : Word)
  deriving DecidableEq, Repr, Inhabited

/-- A host write of a register by name; a reserved offset has no name (R91, 10_state.md R20). -/
def writeReg (r : Reg) (v : Word) : List HostAction :=
  match regOffset r with
  | some o => [.write (BitVec.ofNat 12 o) .word v]
  | none => []

/-- A host read of a register by name (R91). -/
def readReg (r : Reg) : List HostAction :=
  match regOffset r with
  | some o => [.read (BitVec.ofNat 12 o) .word]
  | none => []

/-- The operand register OPn (10_state.md R29). -/
def opReg (n : Fin 4) : Reg :=
  if n = 0 then .op0 else if n = 1 then .op1 else if n = 2 then .op2 else .op3

/-- A command written to CMD and waited for (R91). -/
def issue (i : Instr) : List HostAction := writeReg .cmd (encode i) ++ [.wait]

/-- The host actions of a statement (R91, R92). -/
def HostStmt.actions : HostStmt → List HostAction
  | .wr r v => writeReg r v
  | .rd r => readReg r
  | .cmd i => writeReg .cmd (encode i)
  | .wait => [.wait]
  | .run i => issue i
  | .li n v => writeReg (opReg n) v
  | .brBit => issue (.brRead 1)
  | .clrErr => writeReg .status 0x00000004
  | .clrFlags => writeReg .status 0x0000003E
  | .mcCopy p => writeReg .op2 0 ++ writeReg .op3 0 ++ issue (.mcL p)
  | .mcCopyC p => writeReg .op2 0 ++ writeReg .op3 0 ++ issue (.mcC p)
  | .blk x y => writeReg .op0 x ++ writeReg .op1 y

/-- The state with a host program still to run after what is queued (log 2). -/
def State.withProgram (s : State) (prog : List HostStmt) : State :=
  { s with host := s.host ++ prog.flatMap HostStmt.actions }

end Sys2Proof.Machine
end

