-- ==== Sys2Proof/Tests/Slice0.lean ====
section
/-! SUPPORT. The model's own tests: ill-formed terms refused, every row's word written out from 30_encoding.md R80 to
R88, at most two small tests per command with the expected values of 95_test_vectors.md (its row is named), and for each
statement with hypotheses a concrete state that meets them. -/

namespace Sys2Proof.Tests

open Sys2Proof Sys2Proof.Machine Sys2Proof.Stated

-- The kernel evaluates these theorems one after another: all of them at once need more threads than memory allows.
set_option Elab.async false

/-! ## The test configuration (95_test_vectors.md, TESTCFG) -/

def entry (code len sym : Nat) : VlcEntry := ⟨code, len, BitVec.ofNat 16 sym⟩

/-- TESTCFG's profile G tables 0, 1 and 2; every other table is absent. -/
def testVlc : Vector (Option (List VlcEntry)) 16 :=
  (((Vector.replicate 16 none).set 0 (some [entry 0 1 0, entry 1 2 1, entry 3 3 2, entry 7 4 4, entry 15 4 5])).set 1
    (some [entry 0 1 0, entry 1 2 1, entry 3 3 2, entry 7 3 3])).set 2 (some [entry 0 1 0, entry 1 2 1])

def testProfG : ProfileRom :=
  { Rom.blank.profF with
    vlc := testVlc
    acLarge := [⟨4, 4, 2⟩, ⟨5, 8, 3⟩]
    skipRuns := [⟨0, 0⟩, ⟨1, 1⟩, ⟨2, 63⟩]
    skipEsc := 3
    dcDequantPoints := [⟨0xFFFFFFF9, 0, 0xFFFFFFF9⟩]
    dcCoefPoints := [⟨1024, 8192⟩, ⟨0xFFFFFFB0, 0xFFFFFD80⟩] }

def onesG : Vector Int 64 := Vector.replicate 64 1
def onesF : Vector Word 64 := Vector.replicate 64 0x3F800000

def testRom : Rom :=
  { profF := Rom.blank.profF
    profG := testProfG
    deqF := ⟨onesF, onesF, onesF, onesF, Vector.replicate 16 0x3F800000⟩
    deqG := ⟨onesG, onesG, onesG, onesG, Vector.ofFn fun i => (i.val : Int) + 1⟩ }

/-- The machine after reset with TESTCFG's tables. -/
def base : State := { State.reset with rom := testRom }

/-- The same in profile G. -/
def baseG : State := { base with config := 1 }

/-- Bytes of bus memory from an address. -/
def bytesAt (a : Nat) (l : List Nat) (m : Memory) : Memory :=
  memStore m (l.zipIdx.map fun c => (BitVec.ofNat 32 (a + c.2), BitVec.ofNat 8 c.1))

/-- The next state, or `base` where there is none. -/
def after (o : Host.Outcome State Fault Refusal) : State :=
  match o with
  | .next t => t
  | .fault _ => base
  | .refused _ => base

/-- The state after the step that runs a command word. -/
def ran (w : Nat) (s : State) : State := after (step (s.withFetchWord 32 w))

/-- A state whose pending word is `w` and whose engine has its turn. -/
def pend (w : Nat) : State := base.withFetchWord 32 w

/-! ## Ill-formed terms are refused -/

theorem test_wf_refuses_count_33 : (Instr.brRead 33).wf = false := by decide
theorem test_wf_refuses_count_63 : (Instr.brRead 63).wf = false := by decide
theorem test_wf_accepts_count_32 : (Instr.brRead 32).wf = true := by decide

/-- A table with two codes in conflict, an entry too long, a code too large; a scan that is no permutation; a large
class 0 (R108, R141, R144). -/
theorem test_tables_refused :
    vlcTableOk [entry 0 1 0, entry 2 2 1] = false ∧ vlcTableOk [entry 0 33 0] = false ∧
    vlcTableOk [entry 2 1 0] = false ∧ scanOk (Vector.replicate 64 0) = false ∧ AcClass.ok ⟨0, 4, 2⟩ = false := by
  decide +kernel

/-- A point of DC_TO_COEF that is not about 8 times the pixel value (R150); outside the DC values of the property any value
may stand. -/
theorem test_dc_points_refused :
    dcToCoefOk .g 1024 0 = false ∧ dcToCoefOk .g 1024 8192 = true ∧ dcToCoefOk .f 1024 0x43000000 = true ∧
    dcToCoefOk .f 1024 8192 = false ∧ dcToCoefOk .g 2048 0 = true ∧
    ({ testRom with profG := { testProfG with dcCoefPoints := [⟨1024, 0⟩] } } : Rom).ok = false := by decide +kernel

theorem test_tables_ok : testRom.ok = true := by decide +kernel

/-! ## Decoding: every row's word, its fields from high to low as R80 to R88 lay them out -/

theorem test_decode_nop : decodeWord (0#24 ++ 0x00#8) = .ok .nop := by decide
theorem test_decode_brRead : decodeWord (0#18 ++ 13#6 ++ 0x01#8) = .ok (.brRead 13) := by decide
theorem test_decode_brSkip : decodeWord (0#24 ++ 0x02#8) = .ok .brSkip := by decide
theorem test_decode_brAlign : decodeWord (0#24 ++ 0x03#8) = .ok .brAlign := by decide
theorem test_decode_brSign : decodeWord (0#24 ++ 0x04#8) = .ok .brSign := by decide
theorem test_decode_brRealign : decodeWord (0#24 ++ 0x05#8) = .ok .brRealign := by decide
theorem test_decode_vlcDec : decodeWord (0#20 ++ 9#4 ++ 0x08#8) = .ok (.vlcDec 9) := by decide
theorem test_decode_qset : decodeWord (0#24 ++ 0x10#8) = .ok .qset := by decide
theorem test_decode_acDecode :
    decodeWord (0#22 ++ 0#1 ++ 1#1 ++ 0x11#8) = .ok (.acDecode .chroma .intra) ∧
    decodeWord (0#22 ++ 1#1 ++ 0#1 ++ 0x11#8) = .ok (.acDecode .luma .inter) := by decide
theorem test_decode_coefClear : decodeWord (0#24 ++ 0x12#8) = .ok .coefClear := by decide
theorem test_decode_dcDequant : decodeWord (0#24 ++ 0x13#8) = .ok .dcDequant := by decide
theorem test_decode_dcInsert : decodeWord (0#24 ++ 0x14#8) = .ok .dcInsert := by decide
theorem test_decode_dcSeed : decodeWord (0#23 ++ 1#1 ++ 0x18#8) = .ok (.dcSeed .inter) := by decide
theorem test_decode_dcClamp : decodeWord (0#23 ++ 0#1 ++ 0x19#8) = .ok (.dcClamp .intra) := by decide
theorem test_decode_dcMpred : decodeWord (0#23 ++ 1#1 ++ 0x1A#8) = .ok (.dcMpred .inter) := by decide
theorem test_decode_dcMpred2 : decodeWord (0#23 ++ 0#1 ++ 0x1B#8) = .ok (.dcMpred2 .intra) := by decide
theorem test_decode_midPred : decodeWord (0#24 ++ 0x1C#8) = .ok .midPred := by decide
/-- BLK, REPOS, ADD, PLANE, OP. -/
theorem test_decode_idctPut : decodeWord (0#16 ++ 5#4 ++ 1#1 ++ 0#1 ++ 2#2 ++ 0x20#8) = .ok (.idctPut .v true 5) := by
  decide
theorem test_decode_idctAdd : decodeWord (0#16 ++ 8#4 ++ 0#1 ++ 1#1 ++ 3#2 ++ 0x20#8) = .ok (.idctAdd .a false 8) := by
  decide
theorem test_decode_mcL : decodeWord (0#22 ++ 0#2 ++ 0x28#8) = .ok (.mcL .y) := by decide
theorem test_decode_mcC : decodeWord (0#22 ++ 1#2 ++ 0x29#8) = .ok (.mcC .u) := by decide
theorem test_decode_swapRef : decodeWord (0#24 ++ 0x30#8) = .ok .swapRef := by decide

/-- Illegal words are refused by name (R89). -/
theorem test_decode_refusals :
    decodeWord 0x00000006 = .error (.unassignedOpcode 0x06) ∧ decodeWord 0x00000112 = .error (.reservedBits 0x12) ∧
    decodeWord 0x00000428 = .error (.reservedBits 0x28) ∧ decodeWord 0x00002101 = .error (.bitCount 33) ∧
    decodeBytes [0x30, 0, 0] = .error .truncated := by decide

theorem test_decodeTableWord :
    decodeTableWord 32 0x5820 = some (.idctPut .y true 5) ∧ decodeTableWord 16 0x5820 = some (.idctPut .y true 5) ∧
    decodeTableWord 32 0x2101 = none := by decide

/-! ## Bit reader (95_test_vectors.md L2.1: bytes B5 3C 0F at 0x1000) -/

def bits (pos : BitVec 64) (op0 : Word) : State :=
  { base with
    bsBase := 0x1000
    bsLen := 3
    bsPos := pos
    op0 := op0
    res0 := 0x777
    mem := [(0x1000, 0xB5), (0x1001, 0x3C), (0x1002, 0x0F)] }

def showBits (s : State) : Word × BitVec 64 × Bool × Bool := (s.res0, s.bsPos, s.overread, s.done)

/-- BR-6. -/
theorem test_brRead_sentinel : showBits (ran 0x2001 (bits 3 0)) = (0x0001E796, 35, true, true) := by decide +kernel
/-- BR-8. -/
theorem test_brRead_illegal :
    showBits (ran 0x2101 (bits 0 0)) = (0x777, 0, false, false) ∧ (ran 0x2101 (bits 0 0)).errcode = 1 := by
  decide +kernel
/-- BR-10. -/
theorem test_brSkip : showBits (ran 0x02 (bits 11 14)) = (0x777, 25, true, true) := by decide +kernel
/-- BR-12. -/
theorem test_brAlign_aligned : showBits (ran 0x03 (bits 16 0)) = (0x777, 16, false, true) := by decide +kernel
/-- BR-13. -/
theorem test_brAlign_beyond : showBits (ran 0x03 (bits 25 0)) = (0x777, 32, true, true) := by decide +kernel
/-- BR-15. -/
theorem test_brSign_zero : showBits (ran 0x04 (bits 17 0)) = (0, 17, false, true) := by decide +kernel
/-- BR-18. -/
theorem test_brSign_negative : showBits (ran 0x04 (bits 16 0xFFFFFFFD)) = (3, 17, false, true) := by decide +kernel
/-- BR-21, BR-22. -/
theorem test_brRealign_budget :
    (ran 0x05 (bits 8024 1000)).budgetWarn = false ∧ (ran 0x05 (bits 8025 1000)).budgetWarn = true := by decide +kernel
/-- BR-23. -/
theorem test_brRealign_wide : showBits (ran 0x05 (bits 0x100000000 0)) = (0x777, 0, false, true) := by decide +kernel

/-! ## VLC and coefficients (L2.2, L2.3, L2.4) -/

/-- A stream at 0x2000 in profile G, with a coefficient file of nonzero garbage. -/
def stream (bytes : List Nat) (pos : BitVec 64) (q : Word) : State :=
  { baseG with
    bsBase := 0x2000
    bsLen := BitVec.ofNat 32 bytes.length
    bsPos := pos
    qidx := q
    res0 := 0x777
    coef := Vector.replicate 64 0xDEAD
    mem := bytesAt 0x2000 bytes [] }

/-- VLC-8. -/
theorem test_vlcDec_sentinel : showBits (ran 0x08 (stream [0x80] 7 0)) = (1, 9, true, true) := by decide +kernel
/-- VLC-6. -/
theorem test_vlcDec_unmatched :
    showBits (ran 0x208 (stream [0x03] 0 0)) = (0x777, 0, false, false) ∧
    (ran 0x208 (stream [0x03] 0 0)).errcode = 2 := by decide +kernel

/-- Q-2. -/
theorem test_qset_out_of_range :
    (ran 0x10 { baseG with op0 := 37 }).errcode = 3 ∧ (ran 0x10 { baseG with op0 := 37 }).errinfo = 37 := by
  decide +kernel
/-- Q-3. -/
theorem test_qset_profile_f : (ran 0x10 { base with op0 := 15 }).qidx = 15 := by decide +kernel

/-- AC-2 with QIDX 36: the entries written, and the position after. -/
theorem test_acDecode_values :
    (ran 0x11 (stream [0xDB, 0x65] 0 36)).coef = (zeroCoef.set 1 0xFFFFFFB6).set 3 185 ∧
    (ran 0x11 (stream [0xDB, 0x65] 0 36)).bsPos = 16 := by decide +kernel
/-- AC-3: the escape. -/
theorem test_acDecode_escape :
    (ran 0x11 (stream [0x79, 0xFF, 0x0F] 0 0)).coef = (zeroCoef.set 1 1).set 63 0xFFFFFFF1 ∧
    (ran 0x11 (stream [0x79, 0xFF, 0x0F] 0 0)).bsPos = 20 := by decide +kernel

/-- Dequantization, profile F (L2.3). -/
theorem test_deqF :
    deqF (-3) 0x3F000000 0x3F800000 = 0xBFC00000 ∧ intBits 16777217 = 0x4B800000 := by decide +kernel

theorem test_coefClear : (ran 0x12 (stream [] 0 0)).coef = zeroCoef := by decide +kernel

/-- DC-1. -/
theorem test_dcDequant : (ran 0x13 { baseG with op0 := 0xFFFFFFF9 }).res0 = 0xFFFFFFF9 := by decide +kernel
/-- DC-2. -/
theorem test_dcDequant_out_of_range :
    (ran 0x13 { base with qidx := 20 }).errcode = 3 ∧ (ran 0x13 { base with qidx := 20 }).errinfo = 20 := by
  decide +kernel
/-- DC-4. -/
theorem test_dcInsert :
    (ran 0x14 { stream [] 0 0 with op0 := 0xFFFFFFB0 }).coef = (Vector.replicate 64 0xDEAD).set 0 0xFFFFFD80 := by
  decide +kernel
/-- DC-5, DC-6. -/
theorem test_dcSeed : (ran 0x18 baseG).res0 = 1024 ∧ (ran 0x118 { baseG with res0 := 7 }).res0 = 0 := by decide +kernel
/-- DC-8. -/
theorem test_dcClamp_intra : (ran 0x19 { baseG with op0 := 0xFFFFFFFB, res0 := 7 }).res0 = 0 := by decide +kernel
/-- DC-9. -/
theorem test_dcClamp_inter : (ran 0x119 { baseG with op0 := 0xFFFFFC00 }).res0 = 0xFFFFFC01 := by decide +kernel
/-- DC-12. -/
theorem test_dcMpred_inside : (ran 0x1A { baseG with op0 := 100, op1 := 80, op2 := 130 }).res0 = 110 := by
  decide +kernel
/-- DC-16. -/
theorem test_dcMpred_held : (ran 0x11A { baseG with op0 := 500, op1 := 400, op2 := 300 }).res0 = 300 := by
  decide +kernel
/-- DC-18. -/
theorem test_dcMpred2_truncates : (ran 0x11B { baseG with op0 := 0xFFFFFFFD, op1 := 0 }).res0 = 0xFFFFFFFF := by
  decide +kernel
/-- DC-21. -/
theorem test_dcMpred2_clamps : (ran 0x11B { baseG with op0 := 0xFFFFFC01, op1 := 0xFFFFFC00 }).res0 = 0xFFFFFC01 := by
  decide +kernel
/-- The median of -5, -5, 7 and of the widest operands (R156). -/
theorem test_midPred :
    (ran 0x1C { baseG with op0 := 0xFFFFFFFB, op1 := 0xFFFFFFFB, op2 := 7 }).res0 = 0xFFFFFFFB ∧
    (ran 0x1C { baseG with op0 := 0x80000000, op1 := 0, op2 := 0x7FFFFFFF, res0 := 7 }).res0 = 0 := by decide +kernel

/-! ## Transform (L2.5, L2.6) -/

/-- An 8x8 output plane at 0x10000, filled with one byte, and two coefficients. -/
def block (config : Word) (i : Fin 64) (c0 ci : Word) (fill : Nat) : State :=
  { base with
    config := config
    coef := (zeroCoef.set 0 c0).set i ci
    planes := (Vector.replicate 8 ⟨0, 0, 0⟩).set 0 ⟨0x10000, 8, 0x00080008⟩
    mem := bytesAt 0x10000 (List.replicate 64 fill) [] }

/-- Row y of the plane. -/
def rowOf (s : State) (y : Nat) : List Nat := (List.range 8).map fun x => (memGet s.mem (0x10000 + 8 * y + x)).toNat

/-- G-4: rows 0 and 3. -/
theorem test_idctPut_profile_g :
    rowOf (ran 0x20 (block 1 9 8192 512 0)) 0 = [139, 137, 134, 130, 125, 121, 118, 116] ∧
    rowOf (ran 0x20 (block 1 9 8192 512 0)) 3 = [130, 130, 129, 128, 127, 126, 126, 125] := by decide +kernel
/-- F-6: row 7. -/
theorem test_idctPut_profile_f :
    rowOf (ran 0x20 (block 0 1 0x43000000 0x41800000 0)) 7 = [144, 142, 137, 131, 125, 119, 114, 112] := by
  decide +kernel
/-- G-11: row 7. -/
theorem test_idctAdd_profile_g :
    rowOf (ran 0x420 (block 1 1 0 0xFFFFFED4 100)) 7 = [94, 95, 96, 98, 101, 103, 104, 105] := by decide +kernel
/-- IDCT-F-9: row 4. -/
theorem test_idctAdd_profile_f :
    rowOf (ran 0x420 (block 0 1 0xC04CCCCD 0 100)) 4 = [97, 97, 97, 97, 97, 97, 97, 97] := by decide +kernel

/-! ## Motion compensation (L2.7, L2.8) -/

/-- A reference plane at 0x20000 of bank 1 and an output plane at 0x30000 of bank 0, both `size` x `size`. -/
def motion (size : Nat) (f : Nat → Nat → Nat) (a b c d : Word) : State :=
  let desc (base : Word) : PlaneDesc := ⟨base, BitVec.ofNat 32 size, BitVec.ofNat 32 (65536 * size + size)⟩
  { base with
    config := 3
    op0 := a
    op1 := b
    op2 := c
    op3 := d
    planes := ((Vector.replicate 8 ⟨0, 0, 0⟩).set 0 (desc 0x30000)).set 4 (desc 0x20000)
    mem := bytesAt 0x20000 ((List.range (size * size)).map fun k => f (k % size) (k / size)) [] }

def sampleOf (size : Nat) (s : State) (x y : Nat) : Nat := (memGet s.mem (0x30000 + size * y + x)).toNat

/-- ML-5 at (0, 0) and (15, 15), where the phases are 1 and 1; ML-6 at columns 8 to 15. -/
theorem test_mcL_prediction :
    lumaPred (fun x y => 2 * x + y) (axisPos 16 0xFFFFFFFD 1) (axisPos 16 5 1) 0 0 = 47 ∧
    lumaPred (fun x y => 2 * x + y) (axisPos 16 0xFFFFFFFD 1) (axisPos 16 5 1) 15 15 = 92 ∧
    (List.range 8).map (fun i => lumaPred (fun x _ => if x < 20 then 0 else 255) (axisPos 8 1 1) (axisPos 8 0 1) (8 + i) 0)
      = [0, 8, 0, 127, 255, 247, 255, 255] := by decide +kernel
/-- The copy of a zero vector (ML-1) on 16x16 planes with one byte that is not 0. -/
theorem test_mcL_copy :
    sampleOf 16 (ran 0x28 { motion 16 (fun _ _ => 0) 0 0 0 0 with mem := [(0x20011, 9)] }) 1 1 = 9 ∧
    sampleOf 16 (ran 0x28 { motion 16 (fun _ _ => 0) 0 0 0 0 with mem := [(0x20011, 9)] }) 1 2 = 0 := by decide +kernel
/-- MC-6 at (0, 0) on a smaller plane: 4x + 8y with (1, 3) adds 1 and 6. -/
theorem test_mcC_both_axes :
    sampleOf 9 (ran 0x29 (motion 9 (fun x y => 4 * x + 8 * y) 0 0 1 3)) 0 0 = 7 ∧
    sampleOf 9 (ran 0x29 (motion 9 (fun x y => 4 * x + 8 * y) 0 0 1 3)) 7 7 = 91 := by decide +kernel
/-- MCW-3: the read set ends one column beyond the plane. -/
theorem test_mcC_outside :
    sampleOf 8 (ran 0x29 (motion 8 (fun x y => 4 * x + 8 * y) 0 0 1 0)) 0 7 = 0 ∧
    (ran 0x29 (motion 8 (fun x y => 4 * x + 8 * y) 0 0 1 0)).done = true := by decide +kernel

/-! ## System commands (L2.9) and the window -/

theorem test_nop : statusWord (ran 0x00 base) = 0x2 ∧ (ran 0x00 base).cmdCount = 1 := by decide +kernel
theorem test_swapRef : (ran 0x30 { base with config := 1 }).config = 7 ∧ (ran 0x30 { base with config := 7 }).config = 3 := by
  decide +kernel
/-- An illegal word: STATUS reads ERR with code 1, and ERRCMD the word (L2.9). -/
theorem test_illegal_word : statusWord (ran 0x4001 base) = 0x104 ∧ (ran 0x4001 base).errcmd = 0x4001 := by
  decide +kernel
/-- A write of OP0 while a command is pending is lost and sets WWB (10_state.md R44). -/
theorem test_busy_write :
    (after (step { pend 0 with host := [.write 0x020 .word 5] })).op0 = 0 ∧
    statusWord (after (step { pend 0 with host := [.write 0x020 .word 5] })) = 0x21 := by decide +kernel
/-- A byte access of the window changes no register (20_memory.md R65; log 13). -/
theorem test_byte_write_ignored :
    (after (step { base with host := [.write 0x020 .byte 5] })).op0 = 0 ∧
    statusWord (after (step { base with host := [.write 0x020 .byte 5] })) = 0 := by decide +kernel

/-- The pseudo-instruction `mc.copyc u` and `clrflags` as host actions (30_encoding.md R92). -/
theorem test_host_program :
    (base.withProgram [.clrFlags, .mcCopyC .u]).host =
      [.write 0x00C .word 0x3E, .write 0x028 .word 0, .write 0x02C .word 0, .write 0x018 .word 0x129, .wait] := by
  decide +kernel

/-! ## Witnesses: for each statement with hypotheses, a concrete state that meets them -/

/-- The address of a sample of a plane whose rows are its width apart, as a number of bytes from its base. -/
theorem sampleAddr_packed (b h : Word) (n x y : Nat) :
    sampleAddr ⟨b, BitVec.ofNat 32 n, h⟩ (0 + x) (0 + y) = b + BitVec.ofNat 32 (y * n + x) := by
  simp [sampleAddr, BitVec.ofNat_add, BitVec.ofNat_mul, BitVec.add_assoc]

/-- Two byte counts below 2^32 from one base reach one address only if they are equal. -/
theorem add_ofNat_inj {b : Word} {m n : Nat} (hm : m < 2 ^ 32) (hn : n < 2 ^ 32)
    (e : b + BitVec.ofNat 32 m = b + BitVec.ofNat 32 n) : m = n := by
  have e := congrArg BitVec.toNat ((BitVec.add_right_inj b).mp e)
  rwa [BitVec.toNat_ofNat, BitVec.toNat_ofNat, Nat.mod_eq_of_lt hm, Nat.mod_eq_of_lt hn] at e

/-- A plane whose rows are its width apart has its samples at different addresses. -/
theorem samples_distinct_of_packed (b : Word) (n : Nat) (hn : n = 8 ∨ n = 16) (h : Word) :
    samplesDistinct ⟨b, BitVec.ofNat 32 n, h⟩ 0 0 n := by
  intro i j k l hi hj hk hl e
  rw [sampleAddr_packed, sampleAddr_packed] at e
  rcases hn with rfl | rfl <;> have := add_ofNat_inj (by omega) (by omega) e <;> omega

theorem witness_DecodeOfEncode : (Instr.brRead 32).wf = true ∧ (Instr.idctAdd .a true 15).wf = true := by decide

theorem witness_EncodeOfDecode : decodeWord 0x0000F820 = .ok (.idctPut .y true 15) := by decide

/-- An opcode the map lacks, a reserved bit, a count of 33; with an empty queue and before a `wait`. -/
theorem witness_IllegalWordRaisesIllegal :
    enginePending (pend 0x06) ∧ enginePending { pend 0x2101 with host := [.wait] } ∧
    (∀ r ∈ opcodeRows, (pend 0x06).cmd &&& r.mask ≠ r.matchBits) ∧
    (∀ r ∈ opcodeRows, (pend 0x112).cmd &&& r.mask ≠ r.matchBits) ∧
    ((pend 0x2101).cmd &&& 0xFFFFC0FF = 0x00000001 ∧ ((pend 0x2101).cmd.extractLsb' 8 6).toNat > 32) :=
  ⟨⟨rfl, .inl rfl⟩, ⟨rfl, .inr ⟨[], rfl⟩⟩, by decide, by decide, by decide⟩

theorem witness_StepRunsDecodedCommand :
    enginePending (pend 0x30) ∧ decodeWord (pend 0x30).cmd = .ok .swapRef := ⟨⟨rfl, .inl rfl⟩, by decide⟩

theorem witness_CommandThenWaitRunsIt :
    let s : State := { base with host := [.write 0x018 .word (encode (.dcMpred .inter)), .wait] }
    s.busy = false ∧ s.errcode = 0 ∧ (Instr.dcMpred .inter).wf = true ∧
      s.host = .write 0x018 .word (encode (.dcMpred .inter)) :: .wait :: [] := ⟨rfl, rfl, rfl, rfl⟩

theorem witness_GoodKeptByEveryStep : (pend 0x10).good = true ∧ ∃ t, step (pend 0x10) = .next t :=
  ⟨by decide +kernel, _, rfl⟩

theorem witness_TablesNeverChange : step (pend 0x30) = .next (after (step (pend 0x30))) := rfl

/-- A command that completes and one that raises an error: for the three statements about every command. -/
theorem witness_EveryCommandCompletesOrRaises :
    exec .qset { base with op0 := 15 } = .next (after (exec .qset { base with op0 := 15 })) ∧
    exec .qset { base with op0 := 16 } = .next (after (exec .qset { base with op0 := 16 })) := ⟨rfl, rfl⟩

theorem witness_EngineOnlyReadsHostRegisters : exec .swapRef base = .next (after (exec .swapRef base)) := rfl

theorem witness_OnlyNamedCommandsWrite : exec .coefClear base = .next (after (exec .coefClear base)) := rfl

/-- Position 23 is the last of the buffer, 24 the first beyond it. -/
theorem witness_BitstreamBitIsTheBufferBit :
    (bits 0 0).raced = [] ∧ 23 < 8 * (bits 0 0).bsLen.toNat ∧ ¬ 24 < 8 * (bits 0 0).bsLen.toNat := by decide +kernel

theorem witness_BitReaderSeesOnlyTheBuffer :
    (bits 0 0).raced = [] ∧ ∀ k < (bits 0 0).bsLen.toNat,
      memGet ((bits 0 0).mem ++ [(0x1003, 0xFF)]) (((bits 0 0).bsBase.toNat + k) % 2 ^ 32) =
        memGet (bits 0 0).mem (((bits 0 0).bsBase.toNat + k) % 2 ^ 32) := by decide +kernel

theorem witness_BrReadTakesTheNextBits : (32#6).toNat ≤ 32 ∧ (33#6).toNat > 32 := by decide

/-- VLC-1: the third entry matches. -/
theorem witness_VlcDecDecodesTheMatchingEntry :
    let s := stream [0x0B] 0 0
    let t := [entry 0 1 0, entry 1 2 1, entry 3 3 2, entry 7 4 4, entry 15 4 5]
    vlcTable s.rom s.profile 0 = some t ∧ vlcTableOk t = true ∧ entry 3 3 2 ∈ t ∧
      peekBits s s.bsPos (entry 3 3 2).len = (entry 3 3 2).code := by decide +kernel

/-- VLC-9 and VLC-6. -/
theorem witness_VlcDecErrors :
    let s := stream [0x03] 0 0
    vlcTable s.rom s.profile 3 = none ∧ vlcTable s.rom s.profile 2 = some [entry 0 1 0, entry 1 2 1] ∧
      ∀ e ∈ [entry 0 1 0, entry 1 2 1], peekBits s s.bsPos e.len ≠ e.code := by decide +kernel

/-- The last DC value of the property, in each profile. -/
theorem witness_DcInsertWritesPositionZero :
    (let s : State := { baseG with op0 := 2047 }
     s.rom.ok = true ∧ s.op0.toNat ≤ 2047 ∧ s.profile = .g) ∧
    (let s : State := { base with op0 := 2047 }
     s.rom.ok = true ∧ s.op0.toNat ≤ 2047 ∧ s.profile = .f) := by decide +kernel

theorem witness_DcMpredIsTheHeldGradient :
    let s : State := { base with op0 := 100, op1 := 120, op2 := 0xFFFFFFFF }
    (100 : Int) = s.op0.toInt ∧ (120 : Int) = s.op1.toInt ∧ (-1 : Int) = s.op2.toInt := by decide +kernel

theorem witness_DcMpred2IsTheTruncatedAverage :
    let s : State := { base with op0 := 0xFFFFFFFD, op1 := 0 }
    (-3 : Int) = s.op0.toInt ∧ (0 : Int) = s.op1.toInt := by decide +kernel

/-- AC-1, at the highest index of profile G. -/
theorem witness_AcDecodeCompletes :
    let s := stream [0xDB, 0x65] 0 36
    s.qidx.toNat < (if s.profile = .f then 16 else 37) ∧
      acLoop s .luma .intra true 64 (acStart s) = ((acLoop s .luma .intra true 64 (acStart s)).1, none) := by
  decide +kernel

/-- A walk without an error: class 1 (bits 1 0), sign 1, skip 2 (bits 1 1 0) with run 63; step 37 gives -37. -/
theorem witness_AcDecodeCompletes_walk :
    let s := stream [0x1D] 0 36
    s.rom.ok = true ∧ s.qidx.toNat < (if s.profile = .f then 16 else 37) ∧
      AcWalk s .luma .intra 1 s.bsPos (Vector.replicate 64 0) 6 ((Vector.replicate 64 0).set 1 0xFFFFFFDB) none := by
  refine ⟨by decide +kernel, by decide +kernel, ?_⟩
  have code (tid : BitVec 4) (t : List VlcEntry) (pos p : BitVec 64) (e : VlcEntry)
      (h : vlcTable (stream [0x1D] 0 36).rom (stream [0x1D] 0 36).profile tid = some t ∧ e ∈ t ∧
        peekBits (stream [0x1D] 0 36) pos e.len = e.code ∧ p = pos + BitVec.ofNat 64 e.len) :
      codeRead (stream [0x1D] 0 36) tid pos e.sym p := ⟨t, e, h.1, h.2.1, h.2.2.1, rfl, h.2.2.2⟩
  refine .skip (run := 63) (by decide)
    ⟨1, 2, -1, code 0 [entry 0 1 0, entry 1 2 1, entry 3 3 2, entry 7 4 4, entry 15 4 5] 0 2 (entry 1 2 1)
        (by decide +kernel), ?_, .inr ⟨by decide, 0xFFFFFFDB, by decide +kernel, by decide +kernel⟩⟩
    (code 1 [entry 0 1 0, entry 1 2 1, entry 3 3 2, entry 7 3 3] 3 6 (entry 3 3 2) (by decide +kernel))
    (.inr (by decide +kernel)) (.past (by decide))
  exact ⟨1, 0, 1, by decide +kernel, by decide +kernel, .inr (by decide +kernel)⟩

/-- AC-6 at the lowest index refused, and AC-7 at the highest in range. -/
theorem witness_AcDecodeErrors :
    (let s : State := { base with qidx := 16 }
     ¬ s.qidx.toNat < (if s.profile = .f then 16 else 37)) ∧
    (let s : State := { base with qidx := 15 }
     s.qidx.toNat < (if s.profile = .f then 16 else 37) ∧
       acLoop s .luma .intra true 64 (acStart s) = (acStart s, some ⟨.illegal, 0⟩)) := by decide +kernel

/-- A walk that ends with an error: AC-7, the class table is absent. -/
theorem witness_AcDecodeErrors_walk :
    let s : State := { base with qidx := 15 }
    s.rom.ok = true ∧ s.qidx.toNat < (if s.profile = .f then 16 else 37) ∧
      AcWalk s .luma .intra 1 s.bsPos (Vector.replicate 64 0) s.bsPos (Vector.replicate 64 0) (some ⟨.illegal, 0⟩) :=
  ⟨by decide +kernel, by decide +kernel, .noClass (by decide) (.inl (by decide +kernel))⟩

theorem witness_AcDecodeLeavesDcZero :
    let s := stream [0xDB, 0x65] 0 36
    s.rom.ok = true ∧ s.qidx.toNat < (if s.profile = .f then 16 else 37) ∧
      ∃ t, exec (.acDecode .luma .intra) s = .next t := ⟨by decide +kernel, by decide +kernel, _, rfl⟩

/-- The greatest significand; and a tie just above 2^24, and one below the least unit. -/
theorem witness_RoundingIsToANearestValue :
    (2 ^ 24 - 1 : Nat) < 2 ^ 24 ∧
    (2 ^ 23 < 2 ^ 24 ∧ 2 ^ 23 ≤ 2 ^ 23 ∧ 2 * (2 ^ 24 + 1) = (2 * 2 ^ 23 + 1) * 2 ^ 1 * 2 ^ 0) ∧
    (1 < 2 ^ 24 ∧ 2 * 3 = (2 * 1 + 1) * 2 ^ 0 * 2 ^ 1) := by decide

theorem witness_RoundingGivesBinary32Values : (2 ^ 24 - 1 : Nat) < 2 ^ 24 := by decide

/-- The least subnormal, the greatest finite value, minus infinity, minus zero. -/
theorem witness_PatternsAndValuesAgree :
    f32OfBits 0x00000001 ≠ .nan ∧ f32OfBits 0x7F7FFFFF ≠ .nan ∧ f32OfBits 0xFF800000 ≠ .nan ∧
      f32OfBits 0x80000000 ≠ .nan := by decide +kernel

/-- The block of G-1 on a plane that it just fits. -/
def g1 : State := block 1 9 8192 0 0
/-- Its residual: 128 everywhere (42_idct.md R193). -/
def flat128 : Block Int := octOf fun _ => octOf fun _ => 128

theorem witness_IdctCompletes :
    let d := g1.plane g1.outBank .y
    (0, 0) = destPos g1 false 0 ∧ 0 + 8 ≤ planeWidth d ∧ 0 + 8 ≤ planeHeight d ∧ residual .put g1 = .ok flat128 ∧
      residual .add g1 = .ok flat128 := by decide +kernel

/-- The destination one sample too far right (with no error in the transform), then G-6, G-6b and F-11. -/
theorem witness_IdctErrorsInOrder :
    (let s : State := { g1 with op0 := 1 }
     (1, 0) = destPos s false 0 ∧ 1 + 8 > planeWidth (s.plane s.outBank .y)) ∧
    (let s := block 1 9 32768 0 0
     (0, 0) = destPos s false 0 ∧ ¬ (0 + 8 > planeWidth (s.plane s.outBank .y) ∨ 0 + 8 > planeHeight (s.plane s.outBank .y)) ∧
       s.profile = .g ∧ ∃ u v, fits16 (coefAt s u v).toInt = false) ∧
    (let s := block 1 32 30000 30000 0
     (0, 0) = destPos s false 0 ∧ ¬ (0 + 8 > planeWidth (s.plane s.outBank .y) ∨ 0 + 8 > planeHeight (s.plane s.outBank .y)) ∧
       s.profile = .g ∧ (∀ u v, fits16 (coefAt s u v).toInt = true) ∧
       ∃ u v, fits16 (blockGet (columnPass gKernel (coefBlock signed s)) u v) = false) ∧
    (let s := block 0 9 0x7F800000 0 0
     (0, 0) = destPos s false 0 ∧ ¬ (0 + 8 > planeWidth (s.plane s.outBank .y) ∨ 0 + 8 > planeHeight (s.plane s.outBank .y)) ∧
       s.profile = .f ∧
       ∃ u v, f32Finite (f32Sub (blockGet (fTransform .columnsFirst (coefBlock f32OfBits s)) u v) fOffset) = false) := by
  decide +kernel

/-- The widest coefficient of profile G; and one at the end of the tolerance around the greatest DC value. -/
theorem witness_DcOnlyBlockIsFlatInProfileG :
    (let s := block 1 9 32767 0 0
     s.profile = .g ∧ (∀ i : Fin 64, i ≠ 0 → s.coef.get i = 0) ∧ fits16 (s.coef.get 0).toInt = true) ∧
    (let s := block 1 9 16440 0 0
     s.profile = .g ∧ (∀ i : Fin 64, i ≠ 0 → s.coef.get i = 0) ∧ fits16 (s.coef.get 0).toInt = true ∧ 2047 ≤ 2047 ∧
       ((s.coef.get 0).toInt - 8 * ((2047 : Nat) : Int)).natAbs ≤ 64) := by decide +kernel

/-- A finite e at the least finite coefficient, and one that is not. -/
theorem witness_DcOnlyBlockIsFlatInProfileF :
    (let s := block 0 9 0xFF7FFFFF 0 0
     s.profile = .f ∧ (∀ i : Fin 64, i ≠ 0 → s.coef.get i = 0) ∧
       f32Finite (f32Sub (f32Add (f32OfBits (s.coef.get 0)) (f32OfBits 0x44002000)) (f32OfBits 0x44000000)) = true) ∧
    (let s := block 0 9 0x7F800000 0 0
     s.profile = .f ∧ (∀ i : Fin 64, i ≠ 0 → s.coef.get i = 0) ∧
       f32Finite (f32Sub (f32Add (f32OfBits (s.coef.get 0)) (f32OfBits 0x44002000)) (f32OfBits 0x44000000)) = false) := by
  decide +kernel

theorem witness_IdctStoresEachPixel :
    let d := g1.plane g1.outBank .y
    Memory.wf g1.mem = true ∧ (0, 0) = destPos g1 false 0 ∧ 0 + 8 ≤ planeWidth d ∧ 0 + 8 ≤ planeHeight d ∧
      samplesDistinct d 0 0 8 ∧ residual .put g1 = .ok flat128 ∧ residual .add g1 = .ok flat128 ∧
      (∃ t, exec (.idctPut .y false 0) g1 = .next t) ∧ ∃ t, exec (.idctAdd .y false 0) g1 = .next t :=
  ⟨by decide +kernel, by decide +kernel, by decide +kernel, by decide +kernel,
    samples_distinct_of_packed 0x10000 8 (by decide) 0x00080008, by decide +kernel, by decide +kernel, ⟨_, rfl⟩, _, rfl⟩

/-- 16x16 planes and 8x8 planes with one byte set, and the destination, vector given. -/
def luma16 (a b c d : Word) : State := { motion 16 (fun _ _ => 0) a b c d with mem := [(0x20011, 9)] }
def chroma8 (a b c d : Word) : State := { motion 8 (fun _ _ => 0) a b c d with mem := [(0x20009, 9)] }

/-- No reference, with the destination outside as well; then a destination one sample outside either way. -/
theorem witness_McErrorsInOrder :
    ({ luma16 1 0 0 0 with config := 1 } : State).refValid = false ∧
    (let s := luma16 1 0 0 0; s.refValid = true ∧ s.op0.toNat + 16 > planeWidth (s.plane s.outBank .y)) ∧
    (let s := chroma8 0 1 0 0; s.refValid = true ∧ s.op1.toNat + 8 > planeHeight (s.plane s.outBank .y)) := by
  decide +kernel

/-- MW-4 and MCW-3 on the smallest planes. -/
theorem witness_McOutsideWindowLeavesAllUntouched :
    (let s := luma16 0 0 1 0
     s.refValid = true ∧ s.op0.toNat + 16 ≤ planeWidth (s.plane s.outBank .y) ∧
       s.op1.toNat + 16 ≤ planeHeight (s.plane s.outBank .y) ∧
       windowInside (s.plane s.refBank .y) (lumaReadSet (axisPos s.op0 s.op2 1)) (lumaReadSet (axisPos s.op1 s.op3 1)) = false) ∧
    (let s := chroma8 0 0 1 0
     s.refValid = true ∧ s.op0.toNat + 8 ≤ planeWidth (s.plane s.outBank .y) ∧
       s.op1.toNat + 8 ≤ planeHeight (s.plane s.outBank .y) ∧
       windowInside (s.plane s.refBank .y) (chromaReadSet (axisPos s.op0 s.op2 2)) (chromaReadSet (axisPos s.op1 s.op3 2)) =
         false) := by decide +kernel

/-- Two references that differ one column beyond the spans (phase 1 and 0; 3 and 0), at the last sample of each block. -/
theorem witness_McOutsideWindowLeavesAllUntouched_reads :
    (let r : Int → Int → Int := fun x _ => if x ≤ 18 then 7 else 0
     agreeOn r (fun _ _ => 7) (lumaSpan ⟨0, 1⟩) (lumaSpan ⟨0, 0⟩) ∧ (0 : Int) ≤ 15 ∧ (15 : Int) ≤ 15 ∧
       (AxisPos.phase ⟨0, 1⟩ = 0 ∨ AxisPos.phase ⟨0, 1⟩ = 1) ∧ (AxisPos.phase ⟨0, 0⟩ = 0 ∨ AxisPos.phase ⟨0, 0⟩ = 1)) ∧
    (let r : Int → Int → Int := fun x _ => if x ≤ 8 then 7 else 0
     agreeOn r (fun _ _ => 7) (chromaSpan ⟨0, 3⟩) (chromaSpan ⟨0, 0⟩) ∧ (0 : Int) ≤ 7 ∧ (7 : Int) ≤ 7) := by
  refine ⟨⟨fun x y _ h _ _ => if_pos h, by decide⟩, fun x y _ h _ _ => if_pos h, by decide⟩

/-- The samples 0 and 255, a constant reference, the phases 1 and 3, and a canonical memory with distinct samples. -/
theorem witness_McCompletes_prediction :
    (∀ _x _y : Int, (0 : Int) ≤ 255 ∧ (255 : Int) ≤ 255) ∧ AxisPos.phase ⟨0, 1⟩ = 1 ∧ AxisPos.phase ⟨0, 0⟩ = 0 ∧
      (0 ≤ AxisPos.phase ⟨0, 3⟩ ∧ AxisPos.phase ⟨0, 3⟩ ≤ 3 ∧ AxisPos.phase ⟨0, 3⟩ ≠ 0) ∧
      Memory.wf (luma16 0 0 0 0).mem = true ∧ samplesDistinct ⟨0x30000, 16, 0x00100010⟩ 0 0 16 :=
  ⟨fun _ _ => by decide, rfl, rfl, by decide, by decide +kernel,
    samples_distinct_of_packed 0x30000 16 (by decide) 0x00100010⟩

theorem witness_McCompletes :
    (let s := luma16 0 0 0 0
     s.refValid = true ∧ 0 = s.op0.toNat ∧ 0 = s.op1.toNat ∧ 0 + 16 ≤ planeWidth (s.plane s.outBank .y) ∧
       0 + 16 ≤ planeHeight (s.plane s.outBank .y) ∧
       windowInside (s.plane s.refBank .y) (lumaReadSet (axisPos s.op0 s.op2 1)) (lumaReadSet (axisPos s.op1 s.op3 1)) = true) ∧
    (let s := chroma8 0 0 0 0
     s.refValid = true ∧ 0 = s.op0.toNat ∧ 0 = s.op1.toNat ∧ 0 + 8 ≤ planeWidth (s.plane s.outBank .y) ∧
       0 + 8 ≤ planeHeight (s.plane s.outBank .y) ∧
       windowInside (s.plane s.refBank .y) (chromaReadSet (axisPos s.op0 s.op2 2)) (chromaReadSet (axisPos s.op1 s.op3 2)) =
         true) := by decide +kernel

/-- Both planes are just one block wide. -/
theorem witness_ZeroVectorCopiesTheReference :
    (let s := luma16 0 0 0 0
     Memory.wf s.mem = true ∧ s.raced = [] ∧ s.refValid = true ∧ s.op2 = 0 ∧ s.op3 = 0 ∧
       s.op0.toNat + 16 ≤ planeWidth (s.plane s.outBank .y) ∧ s.op1.toNat + 16 ≤ planeHeight (s.plane s.outBank .y) ∧
       s.op0.toNat + 16 ≤ planeWidth (s.plane s.refBank .y) ∧ s.op1.toNat + 16 ≤ planeHeight (s.plane s.refBank .y)) ∧
    samplesDistinct ((luma16 0 0 0 0).plane (luma16 0 0 0 0).outBank .y) 0 0 16 ∧
    (∃ t, exec (.mcL .y) (luma16 0 0 0 0) = .next t) ∧
    (let s := chroma8 0 0 0 0
     Memory.wf s.mem = true ∧ s.raced = [] ∧ s.refValid = true ∧ s.op2 = 0 ∧ s.op3 = 0 ∧
       s.op0.toNat + 8 ≤ planeWidth (s.plane s.outBank .y) ∧ s.op1.toNat + 8 ≤ planeHeight (s.plane s.outBank .y) ∧
       s.op0.toNat + 8 ≤ planeWidth (s.plane s.refBank .y) ∧ s.op1.toNat + 8 ≤ planeHeight (s.plane s.refBank .y)) ∧
    samplesDistinct ((chroma8 0 0 0 0).plane (chroma8 0 0 0 0).outBank .y) 0 0 8 ∧
    (∃ t, exec (.mcC .y) (chroma8 0 0 0 0) = .next t) :=
  ⟨by decide +kernel, samples_distinct_of_packed 0x30000 16 (by decide) 0x00100010, ⟨_, rfl⟩, by decide +kernel,
    samples_distinct_of_packed 0x30000 8 (by decide) 0x00080008, _, rfl⟩

/-- The first byte after each block. -/
theorem witness_PixelCommandsWriteOnlyTheirBlock :
    (0, 0) = destPos g1 false 0 ∧ outsideBlock (g1.plane g1.outBank .y) 0 0 8 0x10040 ∧
    (∃ t, exec (.idctPut .y false 0) g1 = .next t) ∧ (∃ t, exec (.idctAdd .y false 0) g1 = .next t) ∧
    outsideBlock ((luma16 0 0 0 0).plane (luma16 0 0 0 0).outBank .y) 0 0 16 0x30100 ∧
    (∃ t, exec (.mcL .y) (luma16 0 0 0 0) = .next t) ∧
    outsideBlock ((chroma8 0 0 0 0).plane (chroma8 0 0 0 0).outBank .y) 0 0 8 0x30040 ∧
    (∃ t, exec (.mcC .y) (chroma8 0 0 0 0) = .next t) := by
  have out (b h a : Word) (n : Nat) (hn : n = 8 ∨ n = 16) (ha : a = b + BitVec.ofNat 32 (n * n)) :
      outsideBlock ⟨b, BitVec.ofNat 32 n, h⟩ 0 0 n a := by
    intro i j hi hj e
    rw [ha, sampleAddr_packed] at e
    rcases hn with rfl | rfl <;> have := add_ofNat_inj (by omega) (by omega) e <;> omega
  exact ⟨by decide +kernel, out 0x10000 0x00080008 _ 8 (by decide) (by decide), ⟨_, rfl⟩, ⟨_, rfl⟩,
    out 0x30000 0x00100010 _ 16 (by decide) (by decide), ⟨_, rfl⟩,
    out 0x30000 0x00080008 _ 8 (by decide) (by decide), _, rfl⟩

/-- The lowest and the highest bit above OP. -/
theorem witness_NopOnlyCompletes :
    (0x00000100 : Word).extractLsb' 0 8 = 0 ∧ (0x00000100 : Word) ≠ 0 ∧ (0x80000000 : Word).extractLsb' 0 8 = 0 ∧
      (0x80000000 : Word) ≠ 0 := by decide

/-- A CMD write accepted, and one discarded. -/
theorem witness_CmdWriteIsAcceptedOrDiscarded :
    let s : State := { base with host := [.write 0x018 .word 0x30] }
    s.busy = false ∧ hostWrites s 0x018 0x30 [] ∧ s.errcode = 0 ∧ ({ s with errcode := 6 } : State).busy = false ∧
      hostWrites { s with errcode := 6 } 0x018 0x30 [] ∧ ({ s with errcode := 6 } : State).errcode ≠ 0 :=
  ⟨rfl, ⟨rfl, by decide⟩, rfl, rfl, ⟨rfl, by decide⟩, by decide⟩

/-- At CMD, between the two exempt offsets' neighbours, and at the last offset of the window. -/
theorem witness_BusyWriteIsLostAndFlagged :
    let s (off : BitVec 12) : State := { pend 0 with host := [.write off .word 5] }
    (s 0x010).busy = true ∧ hostWrites (s 0x010) 0x010 5 [] ∧ (0x010 : BitVec 12) ≠ 0x00C ∧ (0x010 : BitVec 12) ≠ 0x014 ∧
      hostWrites (s 0xFFC) 0xFFC 5 [] := ⟨rfl, ⟨rfl, by decide⟩, by decide, by decide, rfl, by decide⟩

/-- Idle with an error, and busy. -/
theorem witness_StatusWriteClearsFlags :
    hostWrites { base with errcode := 6, host := [.write 0x00C .word 0x3E] } 0x00C 0x3E [] ∧
      hostWrites { pend 0 with host := [.write 0x00C .word 0x3E] } 0x00C 0x3E [] :=
  ⟨⟨rfl, by decide⟩, rfl, by decide⟩

/-- Listed registers at the ends of the map; an aligned offset that holds one, and one that holds none. -/
theorem witness_RegisterMapHoldsItsOffsets :
    regOffset .id = some 0 ∧ regOffset (.plDim true .a) = some 0x178 ∧ regOffset (.coef 63) = some 0x2FC ∧
      (0x2FC % 4 = 0 ∧ regAt 0x2FC ≠ .reserved) ∧ 0x10C % 4 = 0 ∧ ∀ r : Reg, regOffset r ≠ some 0x10C := by
  refine ⟨by decide, by decide, by decide, by decide, by decide, fun r => ?_⟩
  cases r with
  | plBase b p => cases b <;> cases p <;> decide
  | plStride b p => cases b <;> cases p <;> decide
  | plDim b p => cases b <;> cases p <;> decide
  | coef i => revert i; decide
  | _ => decide

/-- An idle state about to write the register at an offset. -/
def writes (off : BitVec 12) (v : Word) : State := { base with host := [.write off .word v] }

/-- The last entry of COEF, IRQ_EN, a read-only register, a reserved offset, and CTRL with bit 0 clear. -/
theorem witness_PlainRegisterReadsBackItsWrite :
    ((writes 0x2FC 5).busy = false ∧ hostWrites (writes 0x2FC 5) 0x2FC 5 [] ∧ plainReg (regAt (0x2FC : BitVec 12).toNat)) ∧
    (hostWrites (writes 0x010 0xFF) 0x010 0xFF [] ∧ regAt (0x010 : BitVec 12).toNat = .irqEn) ∧
    (hostWrites (writes 0x03C 5) 0x03C 5 [] ∧ ignoresWrites (regAt (0x03C : BitVec 12).toNat)) ∧
    (hostWrites (writes 0xFFC 5) 0xFFC 5 [] ∧ ignoresWrites (regAt (0xFFC : BitVec 12).toNat)) ∧
    (hostWrites (writes 0x014 0xFE) 0x014 0xFE [] ∧ regAt (0x014 : BitVec 12).toNat = .ctrl ∧
      (0xFE : Word).getLsbD 0 = false) := by
  have last : regAt (0x2FC : BitVec 12).toNat = .coef 63 := by decide
  refine ⟨⟨rfl, ⟨rfl, by decide⟩, ?_⟩, ⟨⟨rfl, by decide⟩, by decide⟩, ⟨⟨rfl, by decide⟩, ?_⟩, ⟨⟨rfl, by decide⟩, ?_⟩,
    ⟨rfl, by decide⟩, by decide, by decide⟩
  · rw [last, plainReg]
    repeat' first | exact ⟨63, rfl⟩ | apply Or.inr
  · rw [ignoresWrites]; decide
  · rw [ignoresWrites]; decide

theorem witness_WindowReadHasNoSideEffect :
    ({ base with host := [.read 0x2FC .word] } : State).host = .read 0x2FC .word :: [] ∧ (0x2FC#12).toNat % 4 = 0 :=
  ⟨rfl, by decide⟩

/-- Idle, and with a command pending. -/
theorem witness_SoftResetGivesTheResetRegisters :
    hostWrites { base with host := [.write 0x014 .word 1] } 0x014 1 [] ∧
      hostWrites { pend 0 with host := [.write 0x014 .word 1] } 0x014 1 [] ∧ (1 : Word).getLsbD 0 = true :=
  ⟨⟨rfl, by decide⟩, ⟨rfl, by decide⟩, by decide⟩

/-- A byte not raced beside one that is, and a read of memory while a command is pending. -/
theorem witness_RacesGiveOldOrNewBytes :
    (∀ c ∈ ({ pend 0 with raced := [(0x10, 1)] } : State).raced, c.1 ≠ (0x11 : Word).toNat) ∧
    ({ pend 0 with host := [.memRead 0x10] } : State).busy = true ∧
    ({ pend 0 with host := [.memRead 0x10] } : State).host = .memRead 0x10 :: [] := ⟨by decide, rfl, rfl⟩

end Sys2Proof.Tests
end

section
/-! The obligations about binary32 rounding and patterns (00_scope.md R11). The rounding cuts `roundDrop n k` low bits of
`n` to the nearest integer, ties to even; what is kept has at most 24 bits, and at least 24 where more than `k` bits
are cut. -/

namespace Sys2Proof.Proofs.Binary32

open Sys2Proof.Machine

/-! ### Rounding to an integer -/

/-- `roundShift` by quotient and remainder: up past the half, and up at the half from an odd quotient. -/
theorem roundShift_mul_add (q r d : Nat) (hr : r < 2 ^ d) :
    roundShift (q * 2 ^ d + r) d =
      if 2 * r > 2 ^ d ∨ (2 * r = 2 ^ d ∧ q % 2 = 1) then q + 1 else q := by
  have hquot : (q * 2 ^ d + r) >>> d = q := by
    rw [Nat.shiftRight_eq_div_pow, Nat.add_comm, Nat.add_mul_div_right _ _ d.two_pow_pos, Nat.div_eq_of_lt hr,
      Nat.zero_add]
  have hrem : (q * 2 ^ d + r) % 2 ^ d = r := by rw [Nat.mul_add_mod_self_right, Nat.mod_eq_of_lt hr]
  simp only [roundShift, hquot, hrem]

theorem roundShift_mul_pow_of_dvd {n d : Nat} (h : 2 ^ d ∣ n) : roundShift n d * 2 ^ d = n := by
  obtain ⟨q, rfl⟩ := h
  have hpos := d.two_pow_pos
  have hround := roundShift_mul_add q 0 d hpos
  rw [if_neg (by omega), Nat.add_zero] at hround
  rw [Nat.mul_comm (2 ^ d) q, hround]

theorem roundShift_half {n a d : Nat} (h : 2 * n = (2 * a + 1) * 2 ^ d) :
    roundShift n d = if a % 2 = 0 then a else a + 1 := by
  cases d with
  | zero => omega
  | succ d =>
    have hpos := d.two_pow_pos
    obtain rfl : n = a * 2 ^ (d + 1) + 2 ^ d := by grind
    rw [roundShift_mul_add a (2 ^ d) (d + 1) (by omega)]
    split <;> split <;> omega

/-- No multiple of `2 ^ d` is nearer to `n` than the rounded one. -/
theorem roundShift_nearest (n d c : Nat) :
    (((roundShift n d * 2 ^ d : Nat) : Int) - (n : Int)).natAbs ≤ (((c * 2 ^ d : Nat) : Int) - (n : Int)).natAbs := by
  obtain ⟨q, r, hr, rfl⟩ : ∃ q r, r < 2 ^ d ∧ n = q * 2 ^ d + r :=
    ⟨n / 2 ^ d, n % 2 ^ d, Nat.mod_lt _ d.two_pow_pos, (Nat.div_add_mod' n _).symm⟩
  have hsides : c * 2 ^ d ≤ q * 2 ^ d ∨ q * 2 ^ d + 2 ^ d ≤ c * 2 ^ d := by
    rw [← Nat.succ_mul]
    exact (Nat.lt_or_ge q c).symm.imp (Nat.mul_le_mul_right _) (Nat.mul_le_mul_right _)
  rw [roundShift_mul_add q r d hr]
  split
  next hup => rw [Nat.succ_mul]; omega
  next hdown => omega

theorem roundShift_le {n d b : Nat} (h : n < b * 2 ^ d) : roundShift n d ≤ b := by
  have hq : n / 2 ^ d < b := Nat.div_lt_of_lt_mul (by rwa [Nat.mul_comm])
  simp only [roundShift, Nat.shiftRight_eq_div_pow]
  split <;> omega

/-! ### The number of bits that are cut -/

/-- How many low bits of `n` `roundMag n k` cuts: those that leave 24, and at least `k`. -/
def roundDrop (n k : Nat) : Nat := max k (Nat.log2 n - 23)

theorem le_roundDrop (n k : Nat) : k ≤ roundDrop n k := Nat.le_max_left ..

theorem roundMag_eq (n k : Nat) :
    roundMag n k = roundShift n (roundDrop n k) * 2 ^ (roundDrop n k - k) := Nat.shiftLeft_eq ..

theorem roundMag_mul_pow (n k : Nat) :
    roundMag n k * 2 ^ k = roundShift n (roundDrop n k) * 2 ^ roundDrop n k := by
  rw [roundMag_eq, Nat.mul_assoc, ← Nat.pow_add, Nat.sub_add_cancel (le_roundDrop n k)]

/-- What is kept has at most 24 bits. -/
theorem lt_pow_roundDrop (n k : Nat) : n < 2 ^ 24 * 2 ^ roundDrop n k := by
  rw [← Nat.pow_add]
  calc n < 2 ^ (Nat.log2 n + 1) := Nat.lt_log2_self
    _ ≤ 2 ^ (24 + roundDrop n k) := Nat.pow_le_pow_right (by decide) (by simp only [roundDrop]; omega)

/-- Where more than `k` bits are cut, what is kept has 24 bits. -/
theorem pow_roundDrop_le {n k : Nat} (h : k < roundDrop n k) : 2 ^ 23 * 2 ^ roundDrop n k ≤ n := by
  have hdrop : roundDrop n k = Nat.log2 n - 23 := by simp only [roundDrop] at h ⊢; omega
  have hlog : 23 + roundDrop n k = Nat.log2 n := by omega
  rw [← Nat.pow_add, hlog]
  exact Nat.log2_self_le (by rintro rfl; simp [hdrop] at h)

/-- A number below 24 bits and `j` more loses at most `j` bits. -/
theorem roundDrop_le {n k j : Nat} (hk : k ≤ j) (h : n < 2 ^ 24 * 2 ^ j) : roundDrop n k ≤ j := by
  rcases Nat.eq_zero_or_pos n with rfl | hpos
  · simpa [roundDrop] using hk
  · have hlog : Nat.log2 n < 24 + j := (Nat.log2_lt (by omega)).2 (by rwa [Nat.pow_add])
    simp only [roundDrop]
    omega

theorem le_roundDrop_of_pow_le {n k j : Nat} (h : 2 ^ 23 * 2 ^ j ≤ n) : j ≤ roundDrop n k := by
  have hlog : 23 + j ≤ Nat.log2 n :=
    (Nat.le_log2 (by have := j.two_pow_pos; omega)).2 (by rwa [Nat.pow_add])
  simp only [roundDrop]
  omega

/-! ### Rounding to a binary32 magnitude -/

/-- A number of 24 bits in a smaller unit than the rounding's is at most the least 24-bit significand of that unit. -/
theorem mul_pow_le_of_lt_roundDrop {n k a j : Nat} (ha : a < 2 ^ 24) (hj : j < roundDrop n k) :
    a * 2 ^ j ≤ 2 ^ 23 * 2 ^ roundDrop n k := by
  calc a * 2 ^ j ≤ 2 ^ 24 * 2 ^ j := Nat.mul_le_mul_right _ ha.le
    _ = 2 ^ 23 * 2 ^ (j + 1) := by ring
    _ ≤ 2 ^ 23 * 2 ^ roundDrop n k := Nat.mul_le_mul_left _ (Nat.pow_le_pow_right (by decide) hj)

theorem roundMag_nearest (n k a e : Nat) (ha : a < 2 ^ 24) :
    (((roundMag n k * 2 ^ k : Nat) : Int) - (n : Int)).natAbs ≤
      (((a * 2 ^ e * 2 ^ k : Nat) : Int) - (n : Int)).natAbs := by
  rw [roundMag_mul_pow, Nat.mul_assoc, ← Nat.pow_add]
  rcases Nat.lt_or_ge (e + k) (roundDrop n k) with hfine | hcoarse
  · have hnear := roundShift_nearest n (roundDrop n k) (2 ^ 23)
    have hbelow := mul_pow_le_of_lt_roundDrop ha hfine
    have hkept : 2 ^ 23 * 2 ^ roundDrop n k ≤ n := pow_roundDrop_le (by omega)
    omega
  · have hunit : a * 2 ^ (e + k) = a * 2 ^ (e + k - roundDrop n k) * 2 ^ roundDrop n k := by
      rw [Nat.mul_assoc, ← Nat.pow_add, Nat.sub_add_cancel hcoarse]
    rw [hunit]
    exact roundShift_nearest ..

/-- Midway between the neighbours `a` and `a + 1` of the unit `2 ^ e`, the rounding cuts at exactly that unit. -/
theorem roundDrop_half {n k a e : Nat} (ha : a < 2 ^ 24) (hunit : 2 ^ 23 ≤ a ∨ e = 0)
    (h : 2 * n = (2 * a + 1) * 2 ^ (e + k)) : roundDrop n k = e + k := by
  have hlow : a * 2 ^ (e + k) ≤ n := by linarith [(e + k).two_pow_pos]
  have hhigh : n < 2 ^ 24 * 2 ^ (e + k) := by
    have := Nat.mul_le_mul_right (2 ^ (e + k)) (Nat.succ_le_of_lt ha)
    linarith [(e + k).two_pow_pos]
  refine Nat.le_antisymm (roundDrop_le (Nat.le_add_left k e) hhigh) ?_
  rcases hunit with hnormal | rfl
  · exact le_roundDrop_of_pow_le ((Nat.mul_le_mul_right _ hnormal).trans hlow)
  · simpa using le_roundDrop n k

theorem roundMag_half {n k a e : Nat} (ha : a < 2 ^ 24) (hunit : 2 ^ 23 ≤ a ∨ e = 0)
    (h : 2 * n = (2 * a + 1) * 2 ^ e * 2 ^ k) :
    roundMag n k = if a % 2 = 0 then a * 2 ^ e else (a + 1) * 2 ^ e := by
  rw [Nat.mul_assoc, ← Nat.pow_add] at h
  rw [roundMag_eq, roundDrop_half ha hunit h, roundShift_half h, Nat.add_sub_cancel, ite_mul]

/-- Settles O37: the rounding is to the nearest multiple of its unit; a candidate in a smaller unit is no nearer than the
least 24-bit significand of that unit, and at a tie the unit is the tie's own. -/
theorem roundingIsToANearestValue : Obligations.RoundingIsToANearestValue :=
  ⟨roundMag_nearest, fun _ _ _ _ => roundMag_half⟩

/-- A significand rounded up to 25 bits is `2 ^ 24`, one bit of the next greater unit. -/
theorem roundMag_significand (n k : Nat) : ∃ a e : Nat, a < 2 ^ 24 ∧ roundMag n k = a * 2 ^ e := by
  rw [roundMag_eq]
  rcases (roundShift_le (lt_pow_roundDrop n k)).lt_or_eq with hlt | hcarry
  · exact ⟨_, _, hlt, rfl⟩
  · exact ⟨2 ^ 23, roundDrop n k - k + 1, by decide, by rw [hcarry]; ring⟩

theorem roundMag_exact (a e k : Nat) (ha : a < 2 ^ 24) : roundMag (a * 2 ^ e * 2 ^ k) k = a * 2 ^ e := by
  have hdrop : roundDrop (a * 2 ^ e * 2 ^ k) k ≤ e + k := by
    refine roundDrop_le (Nat.le_add_left k e) ?_
    rw [Nat.mul_assoc, ← Nat.pow_add]
    exact Nat.mul_lt_mul_of_pos_right ha (Nat.two_pow_pos _)
  have hzeros : 2 ^ roundDrop (a * 2 ^ e * 2 ^ k) k ∣ a * 2 ^ e * 2 ^ k := by
    conv_rhs => rw [Nat.mul_assoc, ← Nat.pow_add]
    exact (Nat.pow_dvd_pow 2 hdrop).mul_left a
  refine Nat.eq_of_mul_eq_mul_right k.two_pow_pos ?_
  rw [roundMag_mul_pow, roundShift_mul_pow_of_dvd hzeros]

/-- Settles O38: the kept part has 24 bits or carries into `2 ^ 24`, and a number with 24 significant bits loses only
zeros. -/
theorem roundingGivesBinary32Values : Obligations.RoundingGivesBinary32Values :=
  ⟨roundMag_significand, roundMag_exact⟩

/-! ### Patterns -/

section
variable {w : Word}

theorem f32OfBits_nan (hexp : (w.extractLsb' 23 8).toNat = 255) (hfrac : (w.extractLsb' 0 23).toNat ≠ 0) :
    f32OfBits w = .nan := by
  simp only [f32OfBits, if_pos hexp, if_neg hfrac]

theorem f32OfBits_inf (hexp : (w.extractLsb' 23 8).toNat = 255) (hfrac : (w.extractLsb' 0 23).toNat = 0) :
    f32OfBits w = .inf (w.getLsbD 31) := by
  simp only [f32OfBits, if_pos hexp, if_pos hfrac]

theorem f32OfBits_subnormal (hexp : (w.extractLsb' 23 8).toNat = 0) :
    f32OfBits w = .fin (w.getLsbD 31) (w.extractLsb' 0 23).toNat := by
  simp [f32OfBits, hexp]

theorem f32OfBits_normal (hexp : (w.extractLsb' 23 8).toNat ≠ 255) (hnormal : (w.extractLsb' 23 8).toNat ≠ 0) :
    f32OfBits w = .fin (w.getLsbD 31)
      ((2 ^ 23 + (w.extractLsb' 0 23).toNat) <<< ((w.extractLsb' 23 8).toNat - 1)) := by
  simp only [f32OfBits, if_neg hexp, if_neg hnormal]

end

/-- An infinity is written with exponent field 255 and fraction field 0. -/
theorem f32ToBits_inf (free : Word) (s : Bool) :
    f32ToBits free (.inf s) = BitVec.ofNat 32 ((if s then 2 ^ 31 else 0) + (255 * 2 ^ 23 + 0)) := by
  cases s <;> rfl

theorem f32MagBits_subnormal {m : Nat} (h : m < 2 ^ 23) : f32MagBits m = m := if_pos h

theorem f32MagBits_normal {e f : Nat} (he : e ≠ 0) (hf : f < 2 ^ 23) :
    f32MagBits ((2 ^ 23 + f) <<< (e - 1)) = e * 2 ^ 23 + f := by
  obtain ⟨j, rfl⟩ := Nat.exists_eq_succ_of_ne_zero he
  have hpos := j.two_pow_pos
  have hlow : 2 ^ 23 * 2 ^ j ≤ (2 ^ 23 + f) * 2 ^ j := Nat.mul_le_mul_right _ (Nat.le_add_right ..)
  have hhigh : (2 ^ 23 + f) * 2 ^ j < 2 ^ 24 * 2 ^ j := Nat.mul_lt_mul_of_pos_right (by omega) hpos
  have hlog : Nat.log2 ((2 ^ 23 + f) <<< j) = 23 + j := by
    rw [Nat.shiftLeft_eq, Nat.log2_eq_iff (by omega), Nat.add_right_comm, Nat.pow_add, Nat.pow_add]
    exact ⟨hlow, hhigh⟩
  have hnormal : ¬ (2 ^ 23 + f) <<< j < 2 ^ 23 := by rw [Nat.shiftLeft_eq]; omega
  have hexp : 23 + j - 22 = j + 1 := by omega
  simp only [f32MagBits, Nat.succ_eq_add_one, Nat.add_sub_cancel, if_neg hnormal, hlog, hexp, Nat.shiftLeft_shiftRight,
    Nat.add_sub_cancel_left]

/-- A word is its sign bit, its exponent field and its fraction field (R11). -/
theorem toNat_eq_fields (w : Word) :
    w.toNat = (if w.getLsbD 31 then 2 ^ 31 else 0) +
      ((w.extractLsb' 23 8).toNat * 2 ^ 23 + (w.extractLsb' 0 23).toNat) := by
  have hw := w.isLt
  have hsign : w.getLsbD 31 = decide (w.toNat / 2 ^ 31 % 2 = 1) := Nat.testBit_eq_decide_div_mod_eq
  simp only [hsign, decide_eq_true_eq, BitVec.extractLsb'_toNat, Nat.shiftRight_eq_div_pow]
  split <;> omega

/-- A word from its fields, as `f32ToBits` writes it. -/
theorem ofNat_fields (w : Word) :
    BitVec.ofNat 32 ((if w.getLsbD 31 then 2 ^ 31 else 0) +
      ((w.extractLsb' 23 8).toNat * 2 ^ 23 + (w.extractLsb' 0 23).toNat)) = w := by
  rw [← toNat_eq_fields, BitVec.ofNat_toNat, BitVec.setWidth_eq]

/-- Settles O39, along the cases of a pattern that is no NaN: infinite, subnormal or zero, normal. -/
theorem patternsAndValuesAgree : Obligations.PatternsAndValuesAgree := by
  intro free w hnan
  have hfields := ofNat_fields w
  have hfrac : (w.extractLsb' 0 23).toNat < 2 ^ 23 := BitVec.isLt _
  by_cases hexp : (w.extractLsb' 23 8).toNat = 255
  · have hzero : (w.extractLsb' 0 23).toNat = 0 := by
      by_contra hne
      exact hnan (f32OfBits_nan hexp hne)
    rw [hexp, hzero] at hfields
    rw [f32OfBits_inf hexp hzero, f32ToBits_inf, hfields]
  by_cases hsub : (w.extractLsb' 23 8).toNat = 0
  · rw [hsub, Nat.zero_mul, Nat.zero_add] at hfields
    rw [f32OfBits_subnormal hsub, f32ToBits, f32MagBits_subnormal hfrac, hfields]
  · rw [f32OfBits_normal hexp hsub, f32ToBits, f32MagBits_normal hsub hfrac, hfields]

end Sys2Proof.Proofs.Binary32
end

section
/-! What a command can do to the state, said once: `exec_effect` names the state each command ends with before it is
retired, and which of its parts the command may have changed (10_state.md R23 to R42, 60_exceptions.md R250, R251). -/

namespace Sys2Proof.Proofs.Engine

open Sys2Proof.Machine

/-! ### The commands that may write each part of the state -/

/-- The commands with a result in RES0 (10_state.md R30). -/
def writesRes0 : Instr → Bool
  | .brRead _ | .brSign | .vlcDec _ | .dcDequant | .dcSeed _ | .dcClamp _ | .dcMpred _ | .dcMpred2 _ | .midPred => true
  | _ => false

/-- The commands that write the coefficient file (10_state.md R41). -/
def writesCoef : Instr → Bool
  | .acDecode _ _ | .coefClear | .dcInsert => true
  | _ => false

/-- The bit-consuming commands (40_bitreader_vlc.md R102). -/
def consumesBits : Instr → Bool
  | .brRead _ | .brSkip | .brAlign | .brSign | .vlcDec _ | .acDecode _ _ => true
  | _ => false

/-- The commands that store samples (42_idct.md R191, R192; 43_motion_comp.md R217, R218). -/
def storesPixels : Instr → Bool
  | .idctPut _ _ _ | .idctAdd _ _ _ | .mcL _ | .mcC _ => true
  | _ => false

theorem writesRes0_cases {i : Instr} (h : writesRes0 i = true) :
    (∃ n, i = .brRead n) ∨ i = .brSign ∨ (∃ n, i = .vlcDec n) ∨ i = .dcDequant ∨ (∃ k, i = .dcSeed k) ∨
      (∃ k, i = .dcClamp k) ∨ (∃ k, i = .dcMpred k) ∨ (∃ k, i = .dcMpred2 k) ∨ i = .midPred := by
  cases i <;> simp_all [writesRes0]

theorem writesCoef_cases {i : Instr} (h : writesCoef i = true) :
    (∃ c k, i = .acDecode c k) ∨ i = .coefClear ∨ i = .dcInsert := by
  cases i <;> simp_all [writesCoef]

theorem consumesBits_cases {i : Instr} (h : consumesBits i = true) :
    (∃ n, i = .brRead n) ∨ i = .brSkip ∨ i = .brAlign ∨ i = .brSign ∨ (∃ n, i = .vlcDec n) ∨
      (∃ c k, i = .acDecode c k) := by
  cases i <;> simp_all [consumesBits]

theorem storesPixels_cases {i : Instr} (h : storesPixels i = true) :
    (∃ p r b, i = .idctPut p r b) ∨ (∃ p r b, i = .idctAdd p r b) ∨ (∃ p, i = .mcL p) ∨ (∃ p, i = .mcC p) := by
  cases i <;> simp_all [storesPixels]

/-! ### The errors commands raise -/

/-- The information value is one that the table gives for the error (60_exceptions.md R250, R262). -/
def raiseInTable (e : Raise) : Prop :=
  match e.kind with
  | .illegal | .noref | .dst => e.info = 0
  | .vlc => True
  | .qrange => 16 ≤ e.info.toNat
  | .range => e.info.toNat ≤ 3

theorem qlim_ge (p : Profile) : 16 ≤ qlim p := by cases p <;> decide

theorem qlim_le (p : Profile) : qlim p ≤ 37 := by cases p <;> decide

theorem raiseInTable_qrange {w : Word} {p : Profile} (h : qlim p ≤ w.toNat) : raiseInTable ⟨.qrange, w⟩ :=
  (qlim_ge p).trans h

theorem raiseInTable_of_qidxOutOfRange {s : State} (h : qidxOutOfRange s = true) :
    raiseInTable ⟨.qrange, s.qidx⟩ := raiseInTable_qrange (of_decide_eq_true h)

/-- The index that QSET accepts is one of the profile, and one it refuses is at least the profile's limit as a word too. -/
theorem qset_index_cases (w : Word) (p : Profile) :
    ((signed w < 0 ∨ (qlim p : Int) ≤ signed w) ∧ qlim p ≤ w.toNat) ∨
      (¬(signed w < 0 ∨ (qlim p : Int) ≤ signed w) ∧ w.toNat < qlim p) := by
  have hlim := qlim_le p
  have hw := w.isLt
  simp only [signed, BitVec.toInt_eq_toNat_cond]
  split <;> omega

theorem raiseInTable_of_vlcSymbol {s : State} {pos : BitVec 64} {t : Option (List VlcEntry)} {e : Raise}
    (h : vlcSymbol s pos t = .error e) : raiseInTable e := by
  obtain ⟨-, hill⟩ | ⟨_, -, -, hvlc⟩ | ⟨_, _, -, -, hok⟩ := vlcSymbol_cases s pos t
  · obtain rfl : ⟨.illegal, 0⟩ = e := by simpa [hill] using h
    rfl
  · obtain rfl : ⟨.vlc, pos.setWidth 32⟩ = e := by simpa [hvlc] using h
    trivial
  · simp [hok] at h

theorem raiseInTable_of_acCode {s : State} {c : PlaneClass} {k : CodingClass} {r r' : AcRun} {e : Raise}
    (h : acCode s c k r = .error (r', e)) : raiseInTable e := by
  unfold acCode at h
  split at h
  next he =>
    obtain ⟨-, rfl⟩ : r = r' ∧ _ = e := by simpa using h
    exact raiseInTable_of_vlcSymbol he
  next =>
    dsimp only at h
    split at h
    · simp at h
    · split at h
      · obtain ⟨-, rfl⟩ : _ = r' ∧ ⟨.range, 0⟩ = e := by simpa using h
        exact Nat.zero_le 3
      · simp at h

theorem raiseInTable_of_acLoop {s : State} {c : PlaneClass} {k : CodingClass} {z : Bool} {fuel : Nat} {r r' : AcRun}
    {e : Raise} (h : acLoop s c k z fuel r = (r', some e)) : raiseInTable e := by
  induction fuel generalizing r with
  | zero => simp [acLoop] at h
  | succ fuel ih =>
    unfold acLoop at h
    split at h
    · simp at h
    · split at h
      next hcode =>
        obtain ⟨-, rfl⟩ : _ = r' ∧ _ = e := by simpa using h
        exact raiseInTable_of_acCode hcode
      next =>
        split at h
        · simp at h
        · split at h
          · exact ih h
          · split at h
            next hskip =>
              obtain ⟨-, rfl⟩ : _ = r' ∧ _ = e := by simpa using h
              exact raiseInTable_of_vlcSymbol hskip
            next => exact ih h

theorem raiseInTable_of_gTransform {order : PassOrder} {b : Block Int} {e : Raise} (h : gTransform order b = .error e) :
    raiseInTable e := by
  have hrange : (⟨.range, 1⟩ : Raise) = e ∨ (⟨.range, 2⟩ : Raise) = e := by
    unfold gTransform gFinish at h
    split at h
    · split at h
      · simp at h
      · exact .inr (by simpa using h)
    · exact .inl (by simpa using h)
  obtain rfl | rfl := hrange
  · exact (by decide : (1 : Nat) ≤ 3)
  · exact (by decide : (2 : Nat) ≤ 3)

theorem raiseInTable_of_fResidual {b : Block F32} {e : Raise} (h : fResidual b = .error e) : raiseInTable e := by
  obtain rfl : (⟨.range, 3⟩ : Raise) = e := by
    simp only [fResidual] at h
    split at h
    · simp at h
    · simpa using h
  exact le_refl 3

theorem raiseInTable_of_residual {mode : StoreMode} {s : State} {e : Raise} (h : Machine.residual mode s = .error e) :
    raiseInTable e := by
  unfold Machine.residual residualWith at h
  split at h
  · exact raiseInTable_of_gTransform h
  · split at h
    next hres =>
      obtain rfl : _ = e := by simpa using h
      exact raiseInTable_of_fResidual hres
    next => simp at h

/-! ### The effect of a command -/

/-- What the command `i`, started in `s`, may leave in the state `u` that it ends with, with the error `r` or without,
before it is retired. Each part is as before by default, so a command's effect names only what it may change. -/
structure Effect (i : Instr) (s u : State) (r : Option Raise) : Prop where
  frame : u = { s with
      config := u.config, qidx := u.qidx, res0 := u.res0, coef := u.coef, bsPos := u.bsPos, overread := u.overread,
      budgetWarn := u.budgetWarn, mem := u.mem } := by rfl
  config : u.config = s.config ∨ i = .swapRef ∧ u.config = swappedConfig s.config := by exact .inl rfl
  qidx : u.qidx = s.qidx ∨ i = .qset ∧ unsigned u.qidx < 37 := by exact .inl rfl
  res0 : u.res0 = s.res0 ∨ writesRes0 i = true ∧ r = none := by exact .inl rfl
  coef : u.coef = s.coef ∨ writesCoef i = true := by exact .inl rfl
  bsPos : u.bsPos = s.bsPos ∨ consumesBits i = true ∨ i = .brRealign := by exact .inl rfl
  overread : u.overread = s.overread ∨ consumesBits i = true := by exact .inl rfl
  budgetWarn : u.budgetWarn = s.budgetWarn ∨ i = .brRealign := by exact .inl rfl
  mem : u.mem = s.mem ∨ storesPixels i = true ∧ ∃ cells, u.mem = memStore s.mem cells := by exact .inl rfl
  raised : ∀ e, r = some e → raiseInTable e := by exact nofun

/-- An error of the table that a command raises without having changed anything. -/
theorem effect_raise (i : Instr) (s : State) {e : Raise} (h : raiseInTable e) : Effect i s s (some e) where
  raised := by rintro _ ⟨⟩; exact h

/-- A command whose whole effect is a value in RES0. -/
theorem effect_res0 {i : Instr} (s : State) (v : Word) (h : writesRes0 i = true) :
    Effect i s { s with res0 := v } none where
  res0 := .inr ⟨h, rfl⟩

/-- A bit-consuming command that ends with a cursor, a result and no error. -/
theorem effect_bits {i : Instr} (s : State) (pos : BitVec 64) (v : Word) (hbits : consumesBits i = true)
    (hres : v = s.res0 ∨ writesRes0 i = true) :
    Effect i s (noteOverread { s with bsPos := pos, res0 := v }) none where
  res0 := hres.imp_right fun h => ⟨h, rfl⟩
  bsPos := .inr (.inl hbits)
  overread := .inr hbits

/-- A bit-consuming command that raises an error of the table with everything else as it was. -/
theorem effect_bits_raise {i : Instr} (s : State) {e : Raise} (hbits : consumesBits i = true) (h : raiseInTable e) :
    Effect i s (noteOverread s) (some e) where
  overread := .inr hbits
  raised := by rintro _ ⟨⟩; exact h

/-- A pixel command that stores a block. -/
theorem effect_storeBlock {i : Instr} (s : State) (d : PlaneDesc) (x y : Nat) (rows : List (List Byte))
    (h : storesPixels i = true) : Effect i s (storeBlock s d x y rows) none where
  mem := .inr ⟨h, _, rfl⟩

theorem signApplied_eq (s : State) :
    signApplied s = { s with bsPos := (signApplied s).bsPos, res0 := (signApplied s).res0 } := by
  by_cases h : signed s.op0 = 0 <;> simp [signApplied, h]

theorem brRead_effect (n : BitVec 6) (s : State) :
    ∃ r u, exec (.brRead n) s = .next (endCommand r u) ∧ Effect (.brRead n) s u r := by
  cases h : bitCountOk n
  · exact ⟨some ⟨.illegal, 0⟩, s, congrArg Host.Outcome.next (if_neg (by simp [h])), effect_raise _ s rfl⟩
  · exact ⟨none, _, congrArg Host.Outcome.next (if_pos h), effect_bits s _ _ rfl (.inr rfl)⟩

theorem brSign_effect (s : State) : ∃ r u, exec .brSign s = .next (endCommand r u) ∧ Effect .brSign s u r := by
  refine ⟨none, noteOverread (signApplied s), rfl, ?_⟩
  rw [signApplied_eq]
  exact effect_bits s _ _ rfl (.inr rfl)

theorem vlcDec_effect (tid : BitVec 4) (s : State) :
    ∃ r u, exec (.vlcDec tid) s = .next (endCommand r u) ∧ Effect (.vlcDec tid) s u r := by
  cases h : vlcSymbol s s.bsPos (vlcTable s.rom s.profile tid) with
  | error e =>
    exact ⟨some e, _, by simp only [exec, execVlcDec, h, endBitCommand_eq],
      effect_bits_raise s rfl (raiseInTable_of_vlcSymbol h)⟩
  | ok sp =>
    exact ⟨none, noteOverread { s with bsPos := sp.2, res0 := sp.1.setWidth 32 },
      by simp only [exec, execVlcDec, h, endBitCommand_eq], effect_bits s _ _ rfl (.inr rfl)⟩

theorem qset_effect (s : State) : ∃ r u, exec .qset s = .next (endCommand r u) ∧ Effect .qset s u r := by
  obtain ⟨hout, hlim⟩ | ⟨hin, hlim⟩ := qset_index_cases s.op0 s.profile
  · exact ⟨some ⟨.qrange, s.op0⟩, s, congrArg Host.Outcome.next (if_pos hout),
      effect_raise _ s (raiseInTable_qrange hlim)⟩
  · exact ⟨none, _, congrArg Host.Outcome.next (if_neg hin),
      { qidx := .inr ⟨rfl, hlim.trans_le (qlim_le s.profile)⟩ }⟩

theorem acDecode_effect (c : PlaneClass) (k : CodingClass) (s : State) :
    ∃ r u, exec (.acDecode c k) s = .next (endCommand r u) ∧ Effect (.acDecode c k) s u r := by
  obtain ⟨hq, hend⟩ | ⟨-, run, e, hloop, hend⟩ := acDecodeWith_cases skipAfterZero c k s
  · exact ⟨_, _, congrArg Host.Outcome.next hend, effect_bits_raise s rfl (raiseInTable_of_qidxOutOfRange hq)⟩
  · exact ⟨e, _, congrArg Host.Outcome.next hend,
      { coef := .inr rfl, bsPos := .inr (.inl rfl), overread := .inr rfl
        raised := fun _ he => raiseInTable_of_acLoop (he ▸ hloop) }⟩

theorem dcDequant_effect (s : State) :
    ∃ r u, exec .dcDequant s = .next (endCommand r u) ∧ Effect .dcDequant s u r := by
  cases h : qidxOutOfRange s
  · exact ⟨none, _, congrArg Host.Outcome.next (if_neg (by simp [h])), effect_res0 s _ rfl⟩
  · exact ⟨some ⟨.qrange, s.qidx⟩, s, congrArg Host.Outcome.next (if_pos h),
      effect_raise _ s (raiseInTable_of_qidxOutOfRange h)⟩

theorem idctCommand_effect {i : Instr} (mode : StoreMode) (p : Plane) (repos : Bool) (blk : BitVec 4) (s : State)
    (h : storesPixels i = true) :
    ∃ r u, idctCommand mode p repos blk s = endCommand r u ∧ Effect i s u r := by
  obtain hdst | ⟨e, hres, hraise⟩ | ⟨_, -, hstore⟩ := idctCommand_cases mode p repos blk s
  · exact ⟨some ⟨.dst, 0⟩, s, hdst, effect_raise i s rfl⟩
  · exact ⟨some e, s, hraise, effect_raise i s (raiseInTable_of_residual hres)⟩
  · exact ⟨none, _, hstore, effect_storeBlock s _ _ _ _ h⟩

theorem mcCommand_effect {i : Instr} (n f : Nat) (rs : AxisPos → Int × Int)
    (pred : (Int → Int → Int) → AxisPos → AxisPos → Int → Int → Int) (p : Plane) (s : State)
    (h : storesPixels i = true) :
    ∃ r u, mcCommand n f rs pred p s = endCommand r u ∧ Effect i s u r := by
  obtain hnoref | hdst | houtside | hstore := mcCommand_cases n f rs pred p s
  · exact ⟨some ⟨.noref, 0⟩, s, hnoref, effect_raise i s rfl⟩
  · exact ⟨some ⟨.dst, 0⟩, s, hdst, effect_raise i s rfl⟩
  · exact ⟨none, s, houtside, {}⟩
  · exact ⟨none, _, hstore, effect_storeBlock s _ _ _ _ h⟩

/-- Everything a command can do: it ends, with an error or without, in a state that has its effect. -/
theorem exec_effect (i : Instr) (s : State) : ∃ r u, exec i s = .next (endCommand r u) ∧ Effect i s u r := by
  cases i with
  | nop => exact ⟨none, s, rfl, {}⟩
  | brRead n => exact brRead_effect n s
  | brSkip => exact ⟨none, _, rfl, effect_bits s _ s.res0 rfl (.inl rfl)⟩
  | brAlign => exact ⟨none, _, rfl, effect_bits s _ s.res0 rfl (.inl rfl)⟩
  | brSign => exact brSign_effect s
  | brRealign => exact ⟨none, _, rfl, { bsPos := .inr (.inr rfl), budgetWarn := .inr rfl }⟩
  | vlcDec tid => exact vlcDec_effect tid s
  | qset => exact qset_effect s
  | acDecode c k => exact acDecode_effect c k s
  | coefClear => exact ⟨none, _, rfl, { coef := .inr rfl }⟩
  | dcDequant => exact dcDequant_effect s
  | dcInsert => exact ⟨none, _, rfl, { coef := .inr rfl }⟩
  | dcSeed k => exact ⟨none, _, rfl, effect_res0 s _ rfl⟩
  | dcClamp k => exact ⟨none, _, rfl, effect_res0 s _ rfl⟩
  | dcMpred k => exact ⟨none, _, rfl, effect_res0 s _ rfl⟩
  | dcMpred2 k => exact ⟨none, _, rfl, effect_res0 s _ rfl⟩
  | midPred => exact ⟨none, _, rfl, effect_res0 s _ rfl⟩
  | idctPut p repos blk =>
    obtain ⟨r, u, heq, heff⟩ := idctCommand_effect (i := .idctPut p repos blk) .put p repos blk s rfl
    exact ⟨r, u, congrArg Host.Outcome.next heq, heff⟩
  | idctAdd p repos blk =>
    obtain ⟨r, u, heq, heff⟩ := idctCommand_effect (i := .idctAdd p repos blk) .add p repos blk s rfl
    exact ⟨r, u, congrArg Host.Outcome.next heq, heff⟩
  | mcL p =>
    obtain ⟨r, u, heq, heff⟩ := mcCommand_effect (i := .mcL p) 16 1 lumaReadSet lumaPred p s rfl
    exact ⟨r, u, congrArg Host.Outcome.next heq, heff⟩
  | mcC p =>
    obtain ⟨r, u, heq, heff⟩ := mcCommand_effect (i := .mcC p) 8 2 chromaReadSet chromaPred p s rfl
    exact ⟨r, u, congrArg Host.Outcome.next heq, heff⟩
  | swapRef => exact ⟨none, _, rfl, { config := .inr ⟨rfl, rfl⟩ }⟩

/-- The state a command leaves is its end in a state that has its effect. -/
theorem effect_of_exec {i : Instr} {s t : State} (h : exec i s = .next t) :
    ∃ r u, t = endCommand r u ∧ Effect i s u r := by
  obtain ⟨r, u, hexec, heff⟩ := exec_effect i s
  exact ⟨r, u, Host.Outcome.next.inj (h.symm.trans hexec), heff⟩

/-- Settles O13: the frame of every command's effect, and the end of a command writes none of these registers. -/
theorem engineOnlyReadsHostRegisters : Obligations.EngineOnlyReadsHostRegisters := by
  intro i s t h
  obtain ⟨r, u, rfl, heff⟩ := effect_of_exec h
  rw [heff.frame]
  simp

/-- Settles O14: each part of a command's effect, under the names of the commands that may have it. -/
theorem onlyNamedCommandsWrite : Obligations.OnlyNamedCommandsWrite := by
  intro i s t h
  obtain ⟨r, u, rfl, heff⟩ := effect_of_exec h
  simp only [endCommand_config, endCommand_qidx, endCommand_res0, endCommand_coef, endCommand_bsPos,
    endCommand_overread, endCommand_budgetWarn, endCommand_mem]
  have hcursor : u.bsPos = s.bsPos ∨ (∃ n, i = .brRead n) ∨ i = .brSkip ∨ i = .brAlign ∨ i = .brSign ∨ i = .brRealign ∨
      (∃ n, i = .vlcDec n) ∨ (∃ c k, i = .acDecode c k) := by
    obtain hsame | hbits | hrealign := heff.bsPos
    · exact .inl hsame
    · have := consumesBits_cases hbits
      tauto
    · tauto
  exact ⟨heff.config.imp_right And.left, heff.qidx.imp_right And.left,
    heff.res0.imp_right fun hres => writesRes0_cases hres.1, heff.coef.imp_right writesCoef_cases, hcursor,
    heff.overread.imp_right consumesBits_cases, heff.budgetWarn,
    heff.mem.imp (fun hmem _ => by rw [hmem]) fun hstore => storesPixels_cases hstore.1⟩

end Sys2Proof.Proofs.Engine
end

section
/-! The step when the engine or the host has its turn, and the laws of the register window: what the map holds at each
offset, what each write stores, and what it leaves alone (10_state.md R20 to R45). -/

namespace Sys2Proof.Proofs.Window

open Sys2Proof.Machine Sys2Proof.Stated

/-! ### Whose turn a step is -/

theorem step_of_enginePending {s : State} (h : enginePending s) : step s = runWord s.cmd s := by
  obtain ⟨hbusy, hhost⟩ := h
  have hturn : engineTurn s.host = true := by
    obtain hempty | ⟨rest, hwait⟩ := hhost
    · rw [hempty, engineTurn]
    · rw [hwait, engineTurn]
  simp [step, stepOnce, hbusy, hturn]

/-- Settles O5: the engine's turn runs the pending word, which is the command it decodes to. -/
theorem stepRunsDecodedCommand : Obligations.StepRunsDecodedCommand := by
  intro s i hturn hdecode
  rw [step_of_enginePending hturn, runWord, hdecode]

section
variable {s : State} {act : HostAction} {rest : List HostAction} {off : BitVec 12} {v : Word}

theorem step_of_idle (hidle : s.busy = false) (hhost : s.host = act :: rest) :
    step s = .next (hostIdle act { s with host := rest }) := by
  simp [step, stepOnce, hostTurn, hidle, hhost]

theorem step_of_busy (hbusy : s.busy = true) (hhost : s.host = act :: rest) (hact : act ≠ .wait) :
    step s = .next (hostBusy act (afterCommand s) { s with host := rest }) := by
  have hturn : engineTurn s.host = false := by
    rw [hhost]
    cases act with
    | wait => exact absurd rfl hact
    | _ => rfl
  rw [step, stepOnce, hbusy, hturn]
  simp [hostTurn, hbusy, hhost]

theorem properAccess_word (haligned : off.toNat % 4 = 0) : properAccess off .word = true := by
  simp [properAccess, haligned]

theorem step_of_idle_write (hidle : s.busy = false) (hwrite : hostWrites s off v rest) :
    step s = .next (regWrite { s with host := rest } v (regAt off.toNat)) := by
  obtain ⟨hhost, haligned⟩ := hwrite
  rw [step_of_idle hidle hhost, hostIdle, if_pos (properAccess_word haligned)]

theorem step_of_busy_write (hbusy : s.busy = true) (hwrite : hostWrites s off v rest) :
    step s = .next (regWriteBusy { s with host := rest } (afterCommand s) v (regAt off.toNat)) := by
  obtain ⟨hhost, haligned⟩ := hwrite
  rw [step_of_busy hbusy hhost nofun, hostBusy, if_pos (properAccess_word haligned)]

end

/-! ### The register map -/

theorem regAt_descriptor {o : Nat} (hlo : 0x100 ≤ o) (hhi : o < 0x180) : regAt o = descReg (o - 0x100) := by
  unfold regAt
  iterate 20 rw [if_neg (by omega)]
  rw [if_pos ⟨hlo, hhi⟩]

theorem regAt_coef {o : Nat} (hlo : 0x200 ≤ o) (hhi : o < 0x300) : regAt o = .coef (Fin.ofNat 64 ((o - 0x200) / 4)) := by
  unfold regAt
  iterate 20 rw [if_neg (by omega)]
  rw [if_neg (by omega), if_pos ⟨hlo, hhi⟩]

/-- Above the single registers the map holds the descriptors, the coefficient file and nothing else. -/
theorem regAt_high {o : Nat} (h : 0x050 ≤ o) :
    (0x100 ≤ o ∧ o < 0x180) ∨ (0x200 ≤ o ∧ o < 0x300) ∨ regAt o = .reserved := by
  by_cases hdesc : 0x100 ≤ o ∧ o < 0x180
  · exact .inl hdesc
  by_cases hcoef : 0x200 ≤ o ∧ o < 0x300
  · exact .inr (.inl hcoef)
  refine .inr (.inr ?_)
  unfold regAt
  iterate 20 rw [if_neg (by omega)]
  rw [if_neg hdesc, if_neg hcoef]

theorem regOffset_regAt_single :
    ∀ o : Fin 0x050, o.val % 4 = 0 → regOffset (regAt o.val) = some o.val := by decide

theorem regOffset_descReg :
    ∀ o : Fin 0x080, o.val % 4 = 0 → descReg o.val ≠ .reserved → regOffset (descReg o.val) = some (0x100 + o.val) := by
  decide

theorem regOffset_regAt {o : Nat} (haligned : o % 4 = 0) (hlisted : regAt o ≠ .reserved) :
    regOffset (regAt o) = some o := by
  by_cases hsingle : o < 0x050
  · exact regOffset_regAt_single ⟨o, hsingle⟩ haligned
  obtain ⟨hlo, hhi⟩ | ⟨hlo, hhi⟩ | hreserved := regAt_high (not_lt.mp hsingle)
  · rw [regAt_descriptor hlo hhi] at hlisted ⊢
    rw [regOffset_descReg ⟨o - 0x100, by omega⟩ (by dsimp only; omega) hlisted]
    exact congrArg some (Nat.add_sub_cancel' hlo)
  · rw [regAt_coef hlo hhi, regOffset, Fin.val_ofNat]
    exact congrArg some (by omega)
  · exact absurd hreserved hlisted

/-- Each offset of the map is aligned, in the window, and holds its register. -/
theorem regAt_regOffset {r : Reg} {o : Nat} (h : regOffset r = some o) : o % 4 = 0 ∧ o < 4096 ∧ regAt o = r := by
  cases r with
  | reserved => simp [regOffset] at h
  | plBase b p | plStride b p | plDim b p =>
    obtain rfl := Option.some.inj h
    cases b <;> cases p <;> simp [regAt, descReg, planeNum, planeOfNat]
  | coef i =>
    obtain rfl := Option.some.inj h
    refine ⟨by omega, by omega, ?_⟩
    rw [regAt_coef (by omega) (by omega), Nat.add_sub_cancel_left, Nat.mul_div_cancel_left _ (by decide)]
    simp
  | _ =>
    obtain rfl := Option.some.inj h
    decide

/-- Settles O55: the two directions of the map, and the third clause by contraposition. -/
theorem registerMapHoldsItsOffsets : Obligations.RegisterMapHoldsItsOffsets :=
  ⟨fun _ _ => regAt_regOffset, fun _ => regOffset_regAt,
    fun _ hunlisted haligned => by_contra fun hlisted => hunlisted _ (regOffset_regAt haligned hlisted), fun _ => rfl⟩

/-! ### Reads -/

theorem regRead_host (s : State) (rest : List HostAction) (r : Reg) :
    regRead { s with host := rest } r = regRead s r := by cases r <;> rfl

/-- Settles O57: idle or busy, the access is a read of the window. -/
theorem windowReadHasNoSideEffect : Obligations.WindowReadHasNoSideEffect := by
  intro s off rest hhost haligned
  have hread : windowRead { s with host := rest } off .word =
      { s with rdata := regRead s (regAt off.toNat), host := rest } := by
    rw [windowRead, if_pos (properAccess_word haligned), regRead_host]
  obtain hbusy | hidle := Bool.eq_false_or_eq_true s.busy
  · rw [step_of_busy hbusy hhost nofun, hostBusy, hread]
  · rw [step_of_idle hidle hhost, hostIdle, hread]

/-! ### STATUS -/

theorem statusBit_getLsbD (b : Bool) {pos : Nat} (hpos : pos < 32) (i : Nat) :
    (statusBit b pos).getLsbD i = (b && decide (pos = i)) := by
  cases b
  · simp [statusBit]
  · simp [statusBit, ← BitVec.twoPow_eq, BitVec.getLsbD_twoPow, hpos]

theorem errcodeBits_getLsbD (e : Byte) (i : Nat) :
    (e.setWidth 32 <<< 8).getLsbD i = (decide (8 ≤ i ∧ i ≤ 15) && e.getLsbD (i - 8)) := by
  have hlow : (!decide (i < 8)) = decide (8 ≤ i) := by rw [← decide_not, decide_eq_decide, Nat.not_lt]
  by_cases h : i ≤ 15
  · have hwidth : i < 32 := by omega
    simp [h, hwidth, hlow]
  · have hout : e.getLsbD (i - 8) = false := BitVec.getLsbD_of_ge e _ (by omega)
    simp [hout]

theorem statusWord_getLsbD (s : State) (i : Nat) :
    (statusWord s).getLsbD i =
      (s.busy && decide (0 = i) || s.done && decide (1 = i) || s.err && decide (2 = i) ||
        s.overread && decide (3 = i) || s.budgetWarn && decide (4 = i) || s.wwb && decide (5 = i) ||
        decide (8 ≤ i ∧ i ≤ 15) && s.errcode.getLsbD (i - 8)) := by
  simp only [statusWord, BitVec.getLsbD_or, errcodeBits_getLsbD, statusBit_getLsbD, Nat.reduceLT]

/-- Settles O58: the bits of STATUS one by one, and the interrupt output from those at 1 to 4. -/
theorem statusReadsItsFieldsAndIrqFollows : Obligations.StatusReadsItsFieldsAndIrqFollows := by
  intro s
  have herr : s.err = decide (s.errcode ≠ 0) := by simp [State.err, bne, beq_eq_decide]
  refine ⟨fun i => ?_, ?_⟩
  · rw [regRead, statusWord_getLsbD, herr]
    split_ifs <;> simp_all <;> omega
  · simp only [regRead, statusWord_getLsbD, State.irq]
    simp

/-! ### Writes -/

/-- What a write of STATUS does, field by field (10_state.md R24, 60_exceptions.md R255). -/
theorem writeStatus_eq (v : Word) (s : State) :
    writeStatus v s = { s with
      done := s.done && !v.getLsbD 1, errcode := if v.getLsbD 2 then 0 else s.errcode,
      overread := s.overread && !v.getLsbD 3, budgetWarn := s.budgetWarn && !v.getLsbD 4,
      wwb := s.wwb && !v.getLsbD 5 } := by
  unfold writeStatus
  split
  next => rfl
  next => rfl

/-- Settles O54: idle or busy, the write is `writeStatus`. -/
theorem statusWriteClearsFlags : Obligations.StatusWriteClearsFlags := by
  intro s v rest hwrite
  have hreg : regAt (0x00C : BitVec 12).toNat = .status := rfl
  obtain hbusy | hidle := Bool.eq_false_or_eq_true s.busy
  · rw [step_of_busy_write hbusy hwrite, hreg, regWriteBusy, writeStatus_eq]
  · rw [step_of_idle_write hidle hwrite, hreg, regWrite, writeStatus_eq]

/-- Settles O52: the write of CMD while idle, with and without an error. -/
theorem cmdWriteIsAcceptedOrDiscarded : Obligations.CmdWriteIsAcceptedOrDiscarded := by
  intro s v rest hidle hwrite
  exact step_of_idle_write hidle hwrite

/-- The word of a well-formed command decodes to it (30_encoding.md R80 to R88): the fields have few values. -/
theorem decodeWord_encode {i : Instr} (h : i.wf = true) : decodeWord (encode i) = .ok i := by
  cases i with
  | brRead n => revert n; decide
  | vlcDec tid => revert tid; decide
  | acDecode c k => cases c <;> cases k <;> rfl
  | dcSeed k | dcClamp k | dcMpred k | dcMpred2 k => cases k <;> rfl
  | idctPut p repos blk | idctAdd p repos blk => revert repos blk; cases p <;> decide
  | mcL p | mcC p => cases p <;> rfl
  | _ => rfl

/-- Settles O6: the first step accepts the word (O52), and then the engine has its turn (O5). -/
theorem commandThenWaitRunsIt : Obligations.CommandThenWaitRunsIt := by
  intro s i rest hidle herr hwf hhost
  refine ⟨_, cmdWriteIsAcceptedOrDiscarded s (encode i) (.wait :: rest) hidle ⟨hhost, by decide⟩, if_pos herr, ?_⟩
  rw [if_pos herr]
  exact stepRunsDecodedCommand _ i ⟨rfl, .inr ⟨rest, rfl⟩⟩ (decodeWord_encode hwf)

theorem regAt_eq_iff {r : Reg} {o a : Nat} (hr : regOffset r = some a) (haligned : o % 4 = 0) :
    regAt o = r ↔ o = a := by
  constructor
  · rintro rfl
    have hlisted : regAt o ≠ .reserved := fun h => by rw [h] at hr; simp [regOffset] at hr
    exact Option.some.inj ((regOffset_regAt haligned hlisted).symm.trans hr)
  · rintro rfl
    exact (regAt_regOffset hr).2.2

theorem regWriteBusy_lost (s after : State) (v : Word) {r : Reg} (hstatus : r ≠ .status) (hctrl : r ≠ .ctrl) :
    regWriteBusy s after v r = { s with wwb := true } := by
  cases r with
  | status => exact absurd rfl hstatus
  | ctrl => exact absurd rfl hctrl
  | _ => rfl

/-- Settles O53: at every other aligned offset the register is neither STATUS nor CTRL. -/
theorem busyWriteIsLostAndFlagged : Obligations.BusyWriteIsLostAndFlagged := by
  intro s off v rest hbusy hwrite hstatus hctrl
  have hother {r : Reg} {a : BitVec 12} (hr : regOffset r = some a.toNat) (hne : off ≠ a) : regAt off.toNat ≠ r :=
    fun h => hne (BitVec.eq_of_toNat_eq ((regAt_eq_iff hr hwrite.2).mp h))
  rw [step_of_busy_write hbusy hwrite, regWriteBusy_lost _ _ _ (hother rfl hstatus) (hother rfl hctrl)]

theorem planeIndex_inj {b b' : Bool} {p p' : Plane} (h : planeIndex b p = planeIndex b' p') : b = b' ∧ p = p' := by
  revert h
  cases b <;> cases b' <;> cases p <;> cases p' <;> decide

theorem plane_setPlane_self (s : State) (b : Bool) (p : Plane) (d : PlaneDesc) : (setPlane s b p d).plane b p = d := by
  simp [State.plane, Vector.get_eq_getElem]

theorem plane_setPlane_ne {s : State} {b b' : Bool} {p p' : Plane} (d : PlaneDesc) (h : ¬(b = b' ∧ p = p')) :
    (setPlane s b p d).plane b' p' = s.plane b' p' := by
  have hne : (planeIndex b p).val ≠ (planeIndex b' p').val := fun e => h (planeIndex_inj (Fin.ext e))
  simp [State.plane, Vector.get_eq_getElem, Vector.getElem_set_ne, hne]

/-- A part of the descriptors that the new descriptor does not change is as before. -/
theorem plane_setPlane_part {α : Type} (f : PlaneDesc → α) {s : State} {b : Bool} {p : Plane} (d : PlaneDesc)
    (h : f d = f (s.plane b p)) (b' : Bool) (p' : Plane) : f ((setPlane s b p d).plane b' p') = f (s.plane b' p') := by
  by_cases heq : b = b' ∧ p = p'
  · obtain ⟨rfl, rfl⟩ := heq
    rw [plane_setPlane_self, h]
  · rw [plane_setPlane_ne d heq]

/-- A write of any register but STATUS, CTRL and CMD leaves what every other register reads. -/
theorem regRead_regWrite_other (s : State) (v : Word) {q r : Reg} (hstatus : r ≠ .status) (hctrl : r ≠ .ctrl)
    (hcmd : r ≠ .cmd) (hne : q ≠ r) : regRead (regWrite s v r) q = regRead s q := by
  cases r with
  | status => exact absurd rfl hstatus
  | ctrl => exact absurd rfl hctrl
  | cmd => exact absurd rfl hcmd
  | config => cases q with
    | config => exact absurd rfl hne
    | _ => rfl
  | irqEn => cases q with
    | irqEn => exact absurd rfl hne
    | _ => rfl
  | op0 => cases q with
    | op0 => exact absurd rfl hne
    | _ => rfl
  | op1 => cases q with
    | op1 => exact absurd rfl hne
    | _ => rfl
  | op2 => cases q with
    | op2 => exact absurd rfl hne
    | _ => rfl
  | op3 => cases q with
    | op3 => exact absurd rfl hne
    | _ => rfl
  | bsBase => cases q with
    | bsBase => exact absurd rfl hne
    | _ => rfl
  | bsLen => cases q with
    | bsLen => exact absurd rfl hne
    | _ => rfl
  | bsPosLo =>
    cases q with
    | bsPosLo => exact absurd rfl hne
    | bsPosHi => exact BitVec.extractLsb'_append_eq_left
    | _ => rfl
  | bsPosHi =>
    cases q with
    | bsPosHi => exact absurd rfl hne
    | bsPosLo =>
      rw [regRead, regWrite]
      exact BitVec.setWidth_append_eq_right
    | _ => rfl
  | plBase b p =>
    cases q with
    | plBase b' p' => exact congrArg PlaneDesc.base (plane_setPlane_ne _ (by rintro ⟨rfl, rfl⟩; exact hne rfl))
    | plStride b' p' => exact plane_setPlane_part PlaneDesc.stride { s.plane b p with base := v } rfl b' p'
    | plDim b' p' => exact plane_setPlane_part PlaneDesc.dim { s.plane b p with base := v } rfl b' p'
    | _ => rfl
  | plStride b p =>
    cases q with
    | plBase b' p' => exact plane_setPlane_part PlaneDesc.base { s.plane b p with stride := v } rfl b' p'
    | plStride b' p' => exact congrArg PlaneDesc.stride (plane_setPlane_ne _ (by rintro ⟨rfl, rfl⟩; exact hne rfl))
    | plDim b' p' => exact plane_setPlane_part PlaneDesc.dim { s.plane b p with stride := v } rfl b' p'
    | _ => rfl
  | plDim b p =>
    cases q with
    | plBase b' p' => exact plane_setPlane_part PlaneDesc.base { s.plane b p with dim := v } rfl b' p'
    | plStride b' p' => exact plane_setPlane_part PlaneDesc.stride { s.plane b p with dim := v } rfl b' p'
    | plDim b' p' => exact congrArg PlaneDesc.dim (plane_setPlane_ne _ (by rintro ⟨rfl, rfl⟩; exact hne rfl))
    | _ => rfl
  | coef i =>
    cases q with
    | coef j =>
      have hij : i.val ≠ j.val := fun e => hne (by rw [Fin.ext e])
      simp [regRead, regWrite, Vector.get_eq_getElem, Vector.getElem_set_ne, hij]
    | _ => rfl
  | _ => rfl

/-- A plain register reads what was written to it. -/
theorem regRead_regWrite_self (s : State) (v : Word) {r : Reg} (h : plainReg r) : regRead (regWrite s v r) r = v := by
  obtain rfl | rfl | rfl | rfl | rfl | rfl | rfl | rfl | ⟨b, p, rfl⟩ | ⟨b, p, rfl⟩ | ⟨b, p, rfl⟩ | ⟨i, rfl⟩ := h
  · rfl
  · rfl
  · rfl
  · rfl
  · rfl
  · rfl
  · rw [regRead, regWrite]
    exact BitVec.setWidth_append_eq_right
  · exact BitVec.extractLsb'_append_eq_left
  · exact congrArg PlaneDesc.base (plane_setPlane_self s b p _)
  · exact congrArg PlaneDesc.stride (plane_setPlane_self s b p _)
  · exact congrArg PlaneDesc.dim (plane_setPlane_self s b p _)
  · exact Vector.getElem_set_self i.isLt

/-- CONFIG and IRQ_EN keep bits 2:0 of what is written (10_state.md R23, R25). -/
theorem fieldMask_getLsbD (i : Nat) : fieldMask.getLsbD i = decide (i ≤ 2) := by
  have hmask : fieldMask = (BitVec.allOnes 3).setWidth 32 := by decide
  rw [hmask, BitVec.getLsbD_setWidth, BitVec.getLsbD_allOnes, ← Bool.decide_and]
  exact decide_eq_decide.mpr (by omega)

theorem masked_getLsbD (v : Word) (i : Nat) : (v &&& fieldMask).getLsbD i = (decide (i ≤ 2) && v.getLsbD i) := by
  rw [BitVec.getLsbD_and, fieldMask_getLsbD, Bool.and_comm]

/-- A write of any register but STATUS, CTRL and CMD reaches registers alone. -/
theorem regWrite_onlyRegisters (s : State) (v : Word) {r : Reg} (hstatus : r ≠ .status) (hctrl : r ≠ .ctrl)
    (hcmd : r ≠ .cmd) : onlyRegisters s (regWrite s v r) s.host := by
  cases r with
  | status => exact absurd rfl hstatus
  | ctrl => exact absurd rfl hctrl
  | cmd => exact absurd rfl hcmd
  | _ => exact ⟨rfl, rfl, rfl, rfl, rfl, rfl⟩

theorem plainReg_ne {r : Reg} (h : plainReg r) : r ≠ .status ∧ r ≠ .ctrl ∧ r ≠ .cmd := by
  refine ⟨?_, ?_, ?_⟩ <;> rintro rfl <;> simp [plainReg] at h

theorem regRead_regWrite_of_plain (s : State) (v : Word) {r : Reg} (h : plainReg r) (q : Reg) :
    regRead (regWrite s v r) q = if q = r then v else regRead s q := by
  obtain ⟨hstatus, hctrl, hcmd⟩ := plainReg_ne h
  split
  next heq => rw [heq, regRead_regWrite_self s v h]
  next hne => exact regRead_regWrite_other s v hstatus hctrl hcmd hne

theorem regRead_regWrite_field (s : State) (v : Word) {r : Reg} (h : r = .config ∨ r = .irqEn) :
    regRead (regWrite s v r) r = v &&& fieldMask := by
  obtain rfl | rfl := h <;> rfl

theorem regWrite_of_ignored (s : State) (v : Word) {r : Reg} (h : ignoresWrites r) : regWrite s v r = s := by
  obtain rfl | rfl | rfl | rfl | rfl | rfl | rfl | rfl := h <;> rfl

/-- Settles O56: an idle host write is `regWrite` at the register of its offset, and what that stores is read off its
laws. -/
theorem plainRegisterReadsBackItsWrite : Obligations.PlainRegisterReadsBackItsWrite := by
  refine ⟨fun s v r hplain => regRead_regWrite_of_plain s v hplain, ?_⟩
  rintro s off v rest r hidle hwrite rfl
  rw [step_of_idle_write hidle hwrite]
  set r := regAt off.toNat
  refine ⟨fun hplain => ?_, fun hfield => ?_, fun hignored => ?_, fun hctrl hbit => ?_⟩
  · obtain ⟨hstatus, hctrl, hcmd⟩ := plainReg_ne hplain
    refine ⟨_, rfl, regWrite_onlyRegisters { s with host := rest } v hstatus hctrl hcmd, fun q => ?_⟩
    rw [regRead_regWrite_of_plain _ v hplain, regRead_host]
  · have hstatus : r ≠ .status := by obtain h | h := hfield <;> simp [h]
    have hctrl : r ≠ .ctrl := by obtain h | h := hfield <;> simp [h]
    have hcmd : r ≠ .cmd := by obtain h | h := hfield <;> simp [h]
    refine ⟨_, rfl, regWrite_onlyRegisters { s with host := rest } v hstatus hctrl hcmd, fun q hne => ?_, fun i => ?_⟩
    · rw [regRead_regWrite_other _ v hstatus hctrl hcmd hne, regRead_host]
    · rw [regRead_regWrite_field _ v hfield, masked_getLsbD]
  · rw [regWrite_of_ignored _ v hignored]
  · rw [hctrl, regWrite, writeCtrl, if_neg (Bool.not_eq_true _ ▸ hbit)]

end Sys2Proof.Proofs.Window
end

section
/-! The obligations about every step: the tables never change (10_state.md R42), and the invariant `State.good` is kept.
What a step can do is said by `step_cases`, what a command can do by `exec_effect`. -/

namespace Sys2Proof.Proofs.Invariant

open Sys2Proof.Machine Sys2Proof.Proofs.Engine Sys2Proof.Proofs.Window

/-! ### The tables -/

theorem runWord_rom {w : Word} {s t : State} (h : runWord w s = .next t) : t.rom = s.rom := by
  obtain ⟨i, -, hrun⟩ | ⟨_, -, hrun⟩ := runWord_cases w s
  · obtain ⟨r, u, rfl, heff⟩ := effect_of_exec (hrun ▸ h)
    rw [endCommand_rom, heff.frame]
  · obtain rfl := Host.Outcome.next.inj (hrun.symm.trans h)
    rfl

theorem regWrite_rom (s : State) (v : Word) (r : Reg) : (regWrite s v r).rom = s.rom := by
  cases r with
  | status => rw [regWrite, writeStatus_eq]
  | ctrl => rw [regWrite, writeCtrl]; split <;> rfl
  | cmd => rw [regWrite, writeCmd]; split <;> rfl
  | _ => rfl

theorem regWriteBusy_rom (s after : State) (v : Word) (r : Reg) : (regWriteBusy s after v r).rom = s.rom := by
  cases r with
  | status => rw [regWriteBusy, writeStatus_eq]
  | ctrl => rw [regWriteBusy]; split <;> rfl
  | _ => rfl

theorem windowRead_rom (s : State) (off : BitVec 12) (width : AccessWidth) : (windowRead s off width).rom = s.rom := by
  unfold windowRead
  split <;> rfl

theorem hostIdle_rom (act : HostAction) (s : State) : (hostIdle act s).rom = s.rom := by
  cases act with
  | write off width v => rw [hostIdle]; split; exacts [regWrite_rom s v _, rfl]
  | read off width => exact windowRead_rom s off width
  | _ => rfl

theorem hostBusy_rom (act : HostAction) (after s : State) : (hostBusy act after s).rom = s.rom := by
  cases act with
  | write off width v => rw [hostBusy]; split; exacts [regWriteBusy_rom s after v _, rfl]
  | read off width => exact windowRead_rom s off width
  | _ => rfl

/-- Settles O11, along what a step can do. -/
theorem tablesNeverChange : Obligations.TablesNeverChange := by
  intro s t h
  obtain ⟨-, -, hrun⟩ | ⟨-, act, rest, -, -, hhost⟩ | ⟨-, act, rest, -, hhost⟩ | ⟨-, -, hnone⟩ := step_cases s
  · exact runWord_rom (hrun ▸ h)
  · obtain rfl := Host.Outcome.next.inj (hhost.symm.trans h)
    exact hostBusy_rom act _ _
  · obtain rfl := Host.Outcome.next.inj (hhost.symm.trans h)
    exact hostIdle_rom act _
  · obtain rfl := Host.Outcome.next.inj (hnone.symm.trans h)
    rfl

/-! ### The parts of the invariant -/

theorem good_iff (s : State) :
    s.good = true ↔ Memory.wf s.mem = true ∧ reservedZero s = true ∧ errcodeKnown s = true ∧ errinfoFits s = true ∧
      pendingWithoutError s = true ∧ qidxInRange s = true ∧ racedOnlyWhileBusy s = true ∧ s.rom.ok = true := by
  simp only [State.good, Bool.and_eq_true, and_assoc]

theorem reservedZero_iff (s : State) :
    reservedZero s = true ↔ s.config &&& ~~~fieldMask = 0 ∧ s.irqEn &&& ~~~fieldMask = 0 := by
  simp [reservedZero]

theorem masked_reserved (v : Word) : v &&& fieldMask &&& ~~~fieldMask = 0 := by
  simp [BitVec.and_assoc]

/-- SWAP_REF writes fields of CONFIG alone (44_system.md R241). -/
theorem swappedConfig_reserved (c : Word) : swappedConfig c &&& ~~~fieldMask = c &&& ~~~fieldMask := by
  refine BitVec.eq_of_getLsbD_eq fun i _ => ?_
  by_cases hfield : i ≤ 2
  · simp [fieldMask_getLsbD, hfield]
  · have hpow : 2 ^ 3 ≤ 2 ^ i := Nat.pow_le_pow_right (by decide) (not_le.mp hfield)
    have hclear {n : Nat} (hn : n < 2 ^ 3) : (BitVec.ofNat 32 n).getLsbD i = false := by
      rw [BitVec.getLsbD_ofNat, Nat.testBit_lt_two_pow (hn.trans_le hpow), Bool.and_false]
    have h4 : (0x4 : Word).getLsbD i = false := hclear (n := 4) (by decide)
    have h2 : (0x2 : Word).getLsbD i = false := hclear (n := 2) (by decide)
    simp only [swappedConfig, BitVec.getLsbD_and, BitVec.getLsbD_or, BitVec.getLsbD_xor, h4, h2, Bool.xor_false,
      Bool.or_false]

/-- With no error ERRINFO is free (60_exceptions.md R250). -/
theorem errinfoFits_of_errcode_zero {s : State} (h : s.errcode = 0) : errinfoFits s = true := by
  simp [errinfoFits, errCode, h]

theorem errcodeKnown_raiseError (e : Raise) (s : State) : errcodeKnown (raiseError e s) = true := by
  obtain ⟨kind, info⟩ := e
  cases kind <;> rfl

theorem errinfoFits_raiseError {e : Raise} (s : State) (h : raiseInTable e) : errinfoFits (raiseError e s) = true := by
  obtain ⟨kind, info⟩ := e
  cases kind <;> simp_all [errinfoFits, errCode, raiseInTable]

/-! ### The engine keeps the invariant -/

theorem good_endCommand {u : State} {r : Option Raise} (hu : u.good = true) (hr : ∀ e, r = some e → raiseInTable e) :
    (endCommand r u).good = true := by
  obtain ⟨hmem, hreserved, hknown, hinfo, -, hqidx, -, hrom⟩ := (good_iff u).mp hu
  cases r with
  | none => exact (good_iff _).mpr ⟨hmem, hreserved, hknown, hinfo, rfl, hqidx, rfl, hrom⟩
  | some e =>
    exact (good_iff _).mpr ⟨hmem, hreserved, errcodeKnown_raiseError e u, errinfoFits_raiseError u (hr e rfl), rfl, hqidx,
      rfl, hrom⟩

theorem good_of_effect {i : Instr} {s u : State} {r : Option Raise} (heff : Effect i s u r) (hs : s.good = true) :
    u.good = true := by
  obtain ⟨hmem, hreserved, hknown, hinfo, hpending, hqidx, hraced, hrom⟩ := (good_iff s).mp hs
  obtain ⟨hconfig, hirq⟩ := (reservedZero_iff s).mp hreserved
  have hmem' : Memory.wf u.mem = true := by
    obtain hsame | ⟨-, cells, hstore⟩ := heff.mem
    · rwa [hsame]
    · rw [hstore]
      exact memStore_wf cells hmem
  have hconfig' : u.config &&& ~~~fieldMask = 0 := by
    obtain hsame | ⟨-, hswap⟩ := heff.config
    · rwa [hsame]
    · rwa [hswap, swappedConfig_reserved]
  have hqidx' : qidxInRange u = true := by
    obtain hsame | ⟨-, hlim⟩ := heff.qidx
    · rwa [qidxInRange, hsame]
    · exact decide_eq_true hlim
  rw [heff.frame, good_iff]
  exact ⟨hmem', (reservedZero_iff _).mpr ⟨hconfig', hirq⟩, hknown, hinfo, hpending, hqidx', hraced, hrom⟩

theorem good_of_runWord {w : Word} {s t : State} (hs : s.good = true) (h : runWord w s = .next t) : t.good = true := by
  obtain ⟨i, -, hrun⟩ | ⟨_, -, hrun⟩ := runWord_cases w s
  · obtain ⟨r, u, rfl, heff⟩ := effect_of_exec (hrun ▸ h)
    exact good_endCommand (good_of_effect heff hs) heff.raised
  · obtain rfl := Host.Outcome.next.inj (hrun.symm.trans h)
    exact good_endCommand (r := some ⟨.illegal, 0⟩) hs (by rintro _ ⟨⟩; rfl)

theorem good_afterCommand {s : State} (hs : s.good = true) : (afterCommand s).good = true := by
  unfold afterCommand
  split
  next hrun => exact good_of_runWord hs hrun
  next => exact hs
  next => exact hs

/-! ### The host keeps the invariant -/

theorem good_writeStatus {s : State} (v : Word) (hs : s.good = true) : (writeStatus v s).good = true := by
  obtain ⟨hmem, hreserved, -, -, -, hqidx, hraced, hrom⟩ := (good_iff s).mp hs
  unfold writeStatus
  split
  · exact (good_iff _).mpr ⟨hmem, hreserved, rfl, errinfoFits_of_errcode_zero rfl, by simp [pendingWithoutError], hqidx,
      hraced, hrom⟩
  · exact hs

theorem good_softReset {s : State} (hmem : Memory.wf s.mem = true) (hrom : s.rom.ok = true) :
    (softReset s).good = true :=
  (good_iff _).mpr ⟨hmem, (reservedZero_iff _).mpr ⟨BitVec.zero_and, BitVec.zero_and⟩, rfl, rfl, rfl, rfl, rfl, hrom⟩

theorem good_regWrite {s : State} (v : Word) (r : Reg) (hs : s.good = true) : (regWrite s v r).good = true := by
  obtain ⟨hmem, hreserved, hknown, hinfo, hpending, hqidx, hraced, hrom⟩ := (good_iff s).mp hs
  obtain ⟨hconfig, hirq⟩ := (reservedZero_iff s).mp hreserved
  cases r with
  | config =>
    exact (good_iff _).mpr ⟨hmem, (reservedZero_iff _).mpr ⟨masked_reserved v, hirq⟩, hknown, hinfo, hpending, hqidx, hraced,
      hrom⟩
  | irqEn =>
    exact (good_iff _).mpr ⟨hmem, (reservedZero_iff _).mpr ⟨hconfig, masked_reserved v⟩, hknown, hinfo, hpending, hqidx,
      hraced, hrom⟩
  | status => exact good_writeStatus v hs
  | ctrl =>
    rw [regWrite, writeCtrl]
    split
    · exact good_softReset hmem hrom
    · exact hs
  | cmd =>
    rw [regWrite, writeCmd]
    split
    next hnone =>
      exact (good_iff _).mpr ⟨hmem, hreserved, hknown, hinfo, by simp [pendingWithoutError, hnone], hqidx, rfl, hrom⟩
    next => exact hs
  | _ => exact hs

theorem good_regWriteBusy {s after : State} (v : Word) (r : Reg) (hs : s.good = true) (hafter : after.good = true) :
    (regWriteBusy s after v r).good = true := by
  obtain ⟨hmem, -, -, -, -, -, -, hrom⟩ := (good_iff s).mp hs
  obtain ⟨hmemAfter, -⟩ := (good_iff after).mp hafter
  cases r with
  | status => exact good_writeStatus v hs
  | ctrl =>
    rw [regWriteBusy]
    split
    · refine good_softReset ?_ hrom
      dsimp only
      split
      · exact hmemAfter
      · exact hmem
    · exact hs
  | _ => exact hs

theorem good_windowRead {s : State} (off : BitVec 12) (width : AccessWidth) (hs : s.good = true) :
    (windowRead s off width).good = true := by
  unfold windowRead
  split
  · exact hs
  · exact hs

theorem good_hostMemWrite {s : State} (a : Word) (b : Byte) (hs : s.good = true) : (hostMemWrite s a b).good = true := by
  obtain ⟨hmem, hrest⟩ := (good_iff s).mp hs
  exact (good_iff _).mpr ⟨memSet_wf hmem b a.isLt, hrest⟩

theorem good_hostMemWriteBusy {s : State} (a : Word) (b : Byte) (hs : s.good = true) (hbusy : s.busy = true) :
    (hostMemWriteBusy s a b).good = true := by
  obtain ⟨hmem, hreserved, hknown, hinfo, hpending, hqidx, -, hrom⟩ := (good_iff _).mp (good_hostMemWrite a b hs)
  exact (good_iff _).mpr ⟨hmem, hreserved, hknown, hinfo, hpending, hqidx,
    by simp [racedOnlyWhileBusy, hostMemWriteBusy, hbusy], hrom⟩

theorem good_hostIdle {s : State} (act : HostAction) (hs : s.good = true) : (hostIdle act s).good = true := by
  cases act with
  | write off width v =>
    rw [hostIdle]
    split
    · exact good_regWrite v _ hs
    · exact hs
  | read off width => exact good_windowRead off width hs
  | memWrite a b => exact good_hostMemWrite a b hs
  | memRead a => exact hs
  | wait => exact hs

theorem good_hostBusy {s after : State} (act : HostAction) (hs : s.good = true) (hafter : after.good = true)
    (hbusy : s.busy = true) : (hostBusy act after s).good = true := by
  cases act with
  | write off width v =>
    rw [hostBusy]
    split
    · exact good_regWriteBusy v _ hs hafter
    · exact hs
  | read off width => exact good_windowRead off width hs
  | memWrite a b => exact good_hostMemWriteBusy a b hs hbusy
  | memRead a => exact hs
  | wait => exact hs

/-- Settles O10, along what a step can do; the host's queue is no part of the invariant. -/
theorem goodKeptByEveryStep : Obligations.GoodKeptByEveryStep := by
  intro s t hs h
  obtain ⟨-, -, hrun⟩ | ⟨hbusy, act, rest, -, -, hhost⟩ | ⟨-, act, rest, -, hhost⟩ | ⟨-, -, hnone⟩ := step_cases s
  · exact good_of_runWord hs (hrun ▸ h)
  · obtain rfl := Host.Outcome.next.inj (hhost.symm.trans h)
    exact good_hostBusy act hs (good_afterCommand hs) hbusy
  · obtain rfl := Host.Outcome.next.inj (hhost.symm.trans h)
    exact good_hostIdle act hs
  · obtain rfl := Host.Outcome.next.inj (hnone.symm.trans h)
    exact hs

end Sys2Proof.Proofs.Invariant
end

section
/-! What bus memory holds after a block store and what a pending command or the host reads from it: the cells of a block
named by row and column, the sample each of them is read back as (20_memory.md R62, R70), and the bytes a racing access
may give (R72, 70_reset_and_hazards.md R286). -/

namespace Sys2Proof.Proofs.BusMemory

open Sys2Proof.Machine Sys2Proof.Stated Sys2Proof.Proofs.Engine Sys2Proof.Proofs.Window

/-! ### Cells written and read back -/

/-- A written address reads as the value that all cells at it agree on; their order is immaterial then. -/
theorem memGet_memStore_of_agree {m : Memory} {cells : List (Word × Byte)} {a : Word} {v : Byte}
    (hm : Memory.wf m = true) (hmem : (a, v) ∈ cells) (hagree : ∀ w, (a, w) ∈ cells → w = v) :
    memGet (memStore m cells) a.toNat = v := by
  induction cells generalizing m with
  | nil => exact absurd hmem List.not_mem_nil
  | cons c cs ih =>
    rw [memStore_cons]
    by_cases hlater : (a, v) ∈ cs
    · exact ih (memSet_wf hm c.2 c.1.isLt) hlater fun w hw => hagree w (List.mem_cons_of_mem _ hw)
    · obtain rfl : (a, v) = c := (List.mem_cons.mp hmem).resolve_right hlater
      have hlast : ∀ d ∈ cs, d.1 ≠ a := by
        rintro ⟨b, w⟩ hd rfl
        obtain rfl := hagree w (List.mem_cons_of_mem _ hd)
        exact hlater hd
      rw [memGet_memStore_other cs a hlast, memGet_memSet_same hm]

theorem mem_rowCells_iff {d : PlaneDesc} {x y : Nat} {vs : List Byte} {c : Word × Byte} :
    c ∈ rowCells d x y vs ↔ ∃ i v, vs[i]? = some v ∧ c = (sampleAddr d (x + i) y, v) := by
  induction vs generalizing x with
  | nil => simp [rowCells]
  | cons u vs ih =>
    rw [rowCells, List.mem_cons, ih]
    refine Iff.trans ?_ Nat.or_exists_add_one
    simp [Nat.add_assoc, Nat.add_comm 1]

theorem mem_blockCells_iff {d : PlaneDesc} {x y : Nat} {rows : List (List Byte)} {c : Word × Byte} :
    c ∈ blockCells d x y rows ↔
      ∃ j row, rows[j]? = some row ∧ ∃ i v, row[i]? = some v ∧ c = (sampleAddr d (x + i) (y + j), v) := by
  induction rows generalizing y with
  | nil => simp [blockCells]
  | cons r rows ih =>
    rw [blockCells, List.mem_append, mem_rowCells_iff, ih]
    refine Iff.trans ?_ Nat.or_exists_add_one
    simp [Nat.add_assoc, Nat.add_comm 1]

/-- After a block store each sample reads as the value stored for its row and column. -/
theorem memGet_memStore_blockCells {m : Memory} {d : PlaneDesc} {x y n i j : Nat} {rows : List (List Byte)}
    {row : List Byte} {v : Byte} (hm : Memory.wf m = true) (hdistinct : samplesDistinct d x y n)
    (hrows : rows.length = n) (hlen : ∀ r ∈ rows, r.length = n) (hrow : rows[j]? = some row) (hv : row[i]? = some v) :
    memGet (memStore m (blockCells d x y rows)) (sampleAddr d (x + i) (y + j)).toNat = v := by
  have hbound {i j : Nat} {row : List Byte} {v : Byte} (hrow : rows[j]? = some row) (hv : row[i]? = some v) :
      i < n ∧ j < n :=
    ⟨hlen row (List.mem_of_getElem? hrow) ▸ (List.getElem?_eq_some_iff.mp hv).1,
      hrows ▸ (List.getElem?_eq_some_iff.mp hrow).1⟩
  refine memGet_memStore_of_agree hm (mem_blockCells_iff.mpr ⟨j, row, hrow, i, v, hv, rfl⟩) fun w hw => ?_
  obtain ⟨j', row', hrow', i', v', hv', heq⟩ := mem_blockCells_iff.mp hw
  obtain ⟨haddr, rfl⟩ := Prod.mk.inj heq
  obtain ⟨hi, hj⟩ := hbound hrow hv
  obtain ⟨hi', hj'⟩ := hbound hrow' hv'
  obtain ⟨rfl, rfl⟩ := hdistinct i j i' j' hi hj hi' hj' haddr
  obtain rfl := Option.some.inj (hrow.symm.trans hrow')
  exact Option.some.inj (hv'.symm.trans hv)

/-! ### The entries of a block -/

@[simp] theorem octGet_octOf {α : Type} (f : Fin 8 → α) (i : Fin 8) : octGet (octOf f) i = f i := by
  fin_cases i <;> rfl

@[simp] theorem octGet_octMap {α β : Type} (f : α → β) (o : Oct α) (i : Fin 8) :
    octGet (octMap f o) i = f (octGet o i) := by
  fin_cases i <;> rfl

theorem octList_getElem? {α : Type} (o : Oct α) (i : Fin 8) : (octList o)[i.val]? = some (octGet o i) := by
  fin_cases i <;> rfl

@[simp] theorem blockGet_octOf {α : Type} (f : Fin 8 → Fin 8 → α) (y x : Fin 8) :
    blockGet (octOf fun v => octOf (f v)) y x = f y x := by
  simp [blockGet]

@[simp] theorem blockGet_blockMap {α β : Type} (f : α → β) (b : Block α) (y x : Fin 8) :
    blockGet (blockMap f b) y x = f (blockGet b y x) := by
  simp [blockGet, blockMap]

theorem blockRows_getElem? {α : Type} (b : Block α) (y : Fin 8) :
    (blockRows b)[y.val]? = some (octList (octGet b y)) := by
  rw [blockRows, List.getElem?_map, octList_getElem?, Option.map_some]

/-- The pixel of IDCT.PUT is the clipped residual (42_idct.md R184). -/
theorem blockGet_pixels_put (s : State) (d : PlaneDesc) (x y : Nat) (r : Block Int) (j i : Fin 8) :
    blockGet (pixels .put s d x y r) j i = clipUint8 (blockGet r j i) := by
  rw [pixels, blockGet_blockMap]

/-- The pixel of IDCT.ADD is the clipped sum of the old sample and the residual (R184, R192). -/
theorem blockGet_pixels_add (s : State) (d : PlaneDesc) (x y : Nat) (r : Block Int) (j i : Fin 8) :
    blockGet (pixels .add s d x y r) j i = clipUint8 (sample s d (x + i.val) (y + j.val) + blockGet r j i) := by
  rw [pixels, blockGet_octOf, destSamples, blockGet_octOf]

/-! ### The transform commands -/

/-- A transform command whose destination is inside the plane and whose transform is in range stores its pixels. -/
theorem idctCommand_of_residual {mode : StoreMode} {p : Plane} {repos : Bool} {blk : BitVec 4} {s : State} {x y : Nat}
    {d : PlaneDesc} {r : Block Int} (hpos : (x, y) = destPos s repos blk) (hd : d = s.plane s.outBank p)
    (hx : x + 8 ≤ planeWidth d) (hy : y + 8 ≤ planeHeight d) (hres : residual mode s = .ok r) :
    idctCommand mode p repos blk s = complete (storeBlock s d x y (blockRows (pixels mode s d x y r))) := by
  subst hd
  simp [idctCommand, ← hpos, blockInside, hx, hy, hres]

/-- After the completion of a stored block its samples read as the block's entries. -/
theorem memGet_complete_storeBlock {s : State} {d : PlaneDesc} {x y : Nat} (b : Block Byte)
    (hm : Memory.wf s.mem = true) (hdistinct : samplesDistinct d x y 8) (i j : Fin 8) :
    memGet (complete (storeBlock s d x y (blockRows b))).mem (sampleAddr d (x + i.val) (y + j.val)).toNat =
      blockGet b j i := by
  obtain ⟨hrows, hlen⟩ := blockRows_shape b
  rw [complete_mem, storeBlock_mem]
  exact memGet_memStore_blockCells hm hdistinct hrows hlen (blockRows_getElem? b j) (octList_getElem? (octGet b j) i)

/-- Settles O44: both commands store a block, and each of its samples reads back as the pixel of the command's mode. -/
theorem idctStoresEachPixel : Obligations.IdctStoresEachPixel := by
  intro p repos blk s t x y d mode r hm hpos hd hx hy hdistinct hres hexec i j
  have hstore := idctCommand_of_residual (p := p) hpos hd hx hy hres
  have hread := memGet_complete_storeBlock (pixels mode s d x y r) hm hdistinct i j
  rw [← hstore] at hread
  cases mode with
  | put =>
    obtain rfl : idctCommand .put p repos blk s = t := Host.Outcome.next.inj hexec
    rw [hread, blockGet_pixels_put]
  | add =>
    obtain rfl : idctCommand .add p repos blk s = t := Host.Outcome.next.inj hexec
    rw [hread, blockGet_pixels_add]

/-! ### Racing accesses -/

theorem mem_racedBytes {s : State} {a : Nat} {b : Byte} : b ∈ racedBytes s a ↔ (a, b) ∈ s.raced := by
  simp [racedBytes]

theorem busRead_mem (s : State) (a : Word) : busRead s a ∈ memGet s.mem a.toNat :: racedBytes s a.toNat := by
  unfold busRead
  split
  next hnone => rw [hnone]; exact List.mem_singleton.mpr rfl
  next old more hsome =>
    have hindex : Config.raceSource s.draws a.toNat % (memGet s.mem a.toNat :: old :: more).length <
        (memGet s.mem a.toNat :: old :: more).length := Nat.mod_lt _ (Nat.succ_pos _)
    rw [hsome, List.getD_eq_getElem _ _ hindex]
    exact List.getElem_mem hindex

/-- A command reads the byte memory holds or one the host replaced while the command was pending (R286). -/
theorem busRead_cases (s : State) (a : Word) :
    busRead s a = memGet s.mem a.toNat ∨ (a.toNat, busRead s a) ∈ s.raced :=
  (List.mem_cons.mp (busRead_mem s a)).imp_right mem_racedBytes.mp

theorem busRead_of_not_raced {s : State} {a : Word} (h : ∀ c ∈ s.raced, c.1 ≠ a.toNat) :
    busRead s a = memGet s.mem a.toNat :=
  (busRead_cases s a).resolve_right fun hraced => h _ hraced rfl

/-- The state a pending command leaves is its next state; every word has one (60_exceptions.md R256). -/
theorem runWord_afterCommand (s : State) : runWord s.cmd s = .next (afterCommand s) := by
  have hnext : ∃ u, runWord s.cmd s = .next u := by
    obtain ⟨i, -, hrun⟩ | ⟨_, -, hrun⟩ := runWord_cases s.cmd s
    · obtain ⟨r, u, hexec, -⟩ := exec_effect i s
      exact ⟨_, hrun.trans hexec⟩
    · exact ⟨_, hrun⟩
  obtain ⟨u, hu⟩ := hnext
  simp only [afterCommand, fetch_eq, hu]

/-- A host read beside a pending command leaves one byte in `rdata`: as it is, or as `after` holds it (R286). -/
theorem hostMemReadBusy_cases (s after : State) (a : Word) :
    ∃ b : Byte, hostMemReadBusy s after a = { s with rdata := b.setWidth 32, draws := s.draws + 1 } ∧
      (b = memGet s.mem a.toNat ∨ b = memGet after.mem a.toNat) := by
  refine ⟨_, rfl, ?_⟩
  split
  · exact .inl rfl
  · split
    · exact .inr rfl
    · exact .inl rfl

/-- Settles O60: what a command's read can answer, then the host's read in its own step. -/
theorem racesGiveOldOrNewBytes : Obligations.RacesGiveOldOrNewBytes := by
  refine ⟨fun s a => ⟨busRead_cases s a, busRead_of_not_raced⟩, fun s a rest hbusy hhost => ?_⟩
  obtain ⟨b, hread, hb⟩ := hostMemReadBusy_cases { s with host := rest } (afterCommand s) a
  have hstep : step s = .next (hostMemReadBusy { s with host := rest } (afterCommand s) a) :=
    step_of_busy hbusy hhost nofun
  exact ⟨b, hstep.trans (congrArg Host.Outcome.next hread),
    hb.imp_right fun hnew => ⟨afterCommand s, runWord_afterCommand s, hnew⟩⟩

end Sys2Proof.Proofs.BusMemory
end

section
/-! The opcode map read both ways (30_encoding.md R80 to R90): the command of a row, encoded again, has the row's match
and, outside the row's mask, the bits of the word it was read from; so a word that decodes is the word of its command. -/

namespace Sys2Proof.Proofs.Encoding

open Sys2Proof.Machine Sys2Proof.Stated Sys2Proof.Proofs.Window

/-! ### Fields put back in their places -/

theorem flagBit_getLsbD (w : Word) (pos : Nat) : flagBit (w.getLsbD pos) pos = w &&& BitVec.twoPow 32 pos := by
  rw [BitVec.and_twoPow, flagBit, BitVec.twoPow_eq]

theorem extractLsb'_shiftLeft (w : Word) (pos n : Nat) :
    (w.extractLsb' pos n).setWidth 32 <<< pos = w &&& (BitVec.allOnes n).setWidth 32 <<< pos := by
  ext i hi
  by_cases hlow : i < pos
  · simp [hlow]
  · have hpos : pos + (i - pos) = i := by omega
    simp [hlow, hpos, hi, Bool.and_comm]

/-- Format N (R82). -/
theorem nField_shiftLeft (w : Word) : (nField w).setWidth 32 <<< 8 = w &&& 0x3F00 := extractLsb'_shiftLeft w 8 6

/-- Format T (R83). -/
theorem tidField_shiftLeft (w : Word) : (tidField w).setWidth 32 <<< 8 = w &&& 0xF00 := extractLsb'_shiftLeft w 8 4

theorem chromaBit_chromaField (w : Word) : chromaBit (chromaField w) = w &&& BitVec.twoPow 32 8 := by
  rw [← flagBit_getLsbD, chromaField]
  cases w.getLsbD 8 <;> rfl

/-- Format M at `pos` 8 (R85). -/
theorem interBit_interField (w : Word) (pos : Nat) :
    interBit (interField w pos) pos = w &&& BitVec.twoPow 32 pos := by
  rw [← flagBit_getLsbD, interField]
  cases w.getLsbD pos <;> rfl

/-- Format Q (R84). -/
theorem chroma_inter_fields (w : Word) : chromaBit (chromaField w) ||| interBit (interField w 9) 9 = w &&& 0x300 := by
  rw [chromaBit_chromaField, interBit_interField, ← BitVec.and_or_distrib_left]
  rfl

theorem planeBits_planeOfBits : ∀ n : BitVec 2, planeBits (planeOfBits n) = n := by decide

/-- Format B with bits 15:10 zero (R86). -/
theorem planeWord_planeField (w : Word) : planeWord (planeField w) = w &&& 0x300 := by
  rw [planeWord, planeField, planeBits_planeOfBits]
  exact extractLsb'_shiftLeft w 8 2

theorem blockWord_fields (w : Word) : blockWord (reposField w) (blkField w) = w &&& 0xF800 := by
  rw [blockWord, reposField, blkField, flagBit_getLsbD, extractLsb'_shiftLeft, ← BitVec.and_or_distrib_left]
  rfl

/-- Format B (R86); its ADD bit belongs to the match. -/
theorem plane_block_fields (w : Word) :
    planeWord (planeField w) ||| blockWord (reposField w) (blkField w) = w &&& 0xFB00 := by
  rw [planeWord_planeField, blockWord_fields, ← BitVec.and_or_distrib_left]
  rfl

/-! ### The rows -/

/-- Each row's fields are all the bits outside its mask, so its encoder puts every one of them back (R88). -/
theorem encode_build (w : Word) : ∀ r ∈ opcodeRows, encode (r.build w) = r.matchBits ||| (w &&& ~~~r.mask) := by
  simp only [opcodeRows, List.cons_append, List.nil_append, List.forall_mem_cons]
  refine ⟨?nop, ?brRead, ?brSkip, ?brAlign, ?brSign, ?brRealign, ?vlcDec, ?qset, ?acDecode, ?coefClear, ?dcDequant,
    ?dcInsert, ?dcSeed, ?dcClamp, ?dcMpred, ?dcMpred2, ?midPred, ?idctPut, ?idctAdd, ?mcL, ?mcC, ?swapRef, nofun⟩
  case brRead => rw [encode, nField_shiftLeft]; rfl
  case vlcDec => rw [encode, tidField_shiftLeft]; rfl
  case acDecode => rw [encode, BitVec.or_assoc, chroma_inter_fields]; rfl
  case dcSeed | dcClamp | dcMpred | dcMpred2 => rw [encode, interBit_interField]; rfl
  case idctPut | idctAdd => rw [encode, BitVec.or_assoc, plane_block_fields]; rfl
  case mcL | mcC => rw [encode, planeWord_planeField]; rfl
  -- The rows without a field, whose mask is the whole word.
  all_goals simp [encode]

theorem or_and_not_of_and_eq {w mask bits : Word} (h : w &&& mask = bits) : bits ||| (w &&& ~~~mask) = w := by
  rw [← h, ← BitVec.and_or_distrib_left, BitVec.or_not_self, BitVec.and_allOnes]

/-- A command comes from a row that matches the word (R88). -/
theorem row_of_decodeWord {w : Word} {i : Instr} (h : decodeWord w = .ok i) :
    ∃ r ∈ opcodeRows, w &&& r.mask = r.matchBits ∧ r.build w = i ∧ i.wf = true := by
  unfold decodeWord at h
  split at h
  next r hfind =>
    have hmatch : rowMatches w r = true := List.find?_some hfind
    split at h
    next hwf =>
      obtain rfl := Except.ok.inj h
      exact ⟨r, List.mem_of_find?_eq_some hfind, eq_of_beq hmatch, rfl, hwf⟩
    next => cases h
  next => split at h <;> cases h

/-- Settles O1: the round trip, by the fields' values. -/
theorem decodeOfEncode : Obligations.DecodeOfEncode := fun _ => decodeWord_encode

/-- Settles O2: the row's match and the fields put back make up the word. -/
theorem encodeOfDecode : Obligations.EncodeOfDecode := by
  intro w i h
  obtain ⟨r, hr, hmatch, rfl, hwf⟩ := row_of_decodeWord h
  exact ⟨hwf, (encode_build w r hr).trans (or_and_not_of_and_eq hmatch)⟩

/-- Settles O3: each word is the encoding of its command. -/
theorem sampleWordsDecode : Obligations.SampleWordsDecode :=
  ⟨decodeWord_encode (i := .nop) rfl, decodeWord_encode (i := .brRead 13) rfl, decodeWord_encode (i := .vlcDec 3) rfl,
    decodeWord_encode (i := .acDecode .chroma .inter) rfl, decodeWord_encode (i := .dcMpred .inter) rfl,
    decodeWord_encode (i := .idctPut .y true 5) rfl, decodeWord_encode (i := .idctAdd .u false 0) rfl,
    decodeWord_encode (i := .mcC .u) rfl, decodeWord_encode (i := .swapRef) rfl⟩

/-! ### Illegal words -/

/-- A word of the BR_READ row is decided by its count alone (R82, R89(c)). -/
theorem decodeWord_of_brReadRow {w : Word} (h : w &&& 0xFFFFC0FF = 0x00000001) :
    decodeWord w = if bitCountOk (nField w) then .ok (.brRead (nField w)) else .error (.bitCount (nField w)) := by
  have hnop : ¬rowMatches w ⟨"NOP", 0x00000000, 0xFFFFFFFF, fun _ => .nop⟩ = true := by
    rw [rowMatches, beq_iff_eq, show (0xFFFFFFFF : Word) = BitVec.allOnes 32 from rfl, BitVec.and_allOnes]
    rintro rfl
    exact absurd h (by decide)
  have hread : rowMatches w ⟨"BR_READ", 0x00000001, 0xFFFFC0FF, fun v => .brRead (nField v)⟩ = true := beq_iff_eq.mpr h
  have hfind : opcodeRows.find? (rowMatches w) = some _ :=
    (List.find?_cons_of_neg hnop).trans (List.find?_cons_of_pos hread)
  rw [decodeWord, hfind]
  rfl

theorem step_of_illegal {s : State} (hturn : enginePending s) (hillegal : ∀ i, decodeWord s.cmd ≠ .ok i) :
    step s = .next (errored 0x01 0 s) := by
  rw [step_of_enginePending hturn]
  obtain ⟨i, hok, -⟩ | ⟨-, -, hrun⟩ := runWord_cases s.cmd s
  · exact absurd hok (hillegal i)
  · exact hrun

/-- Settles O4: neither kind of word decodes. -/
theorem illegalWordRaisesIllegal : Obligations.IllegalWordRaisesIllegal := by
  intro s hturn hword
  refine step_of_illegal hturn fun i hok => ?_
  obtain hnoRow | ⟨hrow, hcount⟩ := hword
  · obtain ⟨r, hr, hmatch, -⟩ := row_of_decodeWord hok
    exact hnoRow r hr hmatch
  · have hbad : ¬bitCountOk (nField s.cmd) = true := fun hle => absurd (of_decide_eq_true hle) hcount.not_ge
    rw [decodeWord_of_brReadRow hrow, if_neg hbad] at hok
    cases hok

end Sys2Proof.Proofs.Encoding
end

section
/-! The obligations about the bit reader and VLC_DEC (40_bitreader_vlc.md R100 to R110): peeked bits as the binary digits
of a number, each of them a bit of the buffer; the cursor's arithmetic modulo 2^64; and the one entry of a well-formed
table that the next bits can match. -/

namespace Sys2Proof.Proofs.BitReader

open Sys2Proof.Machine Sys2Proof.Stated Sys2Proof.Proofs.Window

/-! ### How a bit-consuming command ends -/

@[simp] theorem endBitCommand_none (s : State) : endBitCommand none s = completed (overreadNoted s) := rfl

@[simp] theorem endBitCommand_some (e : Raise) (s : State) :
    endBitCommand (some e) s = errored (errCode e.kind) e.info (overreadNoted s) := rfl

/-! ### Bits of the buffer -/

/-- Settles O15: inside the buffer p / 8 is below 2^32, so only the sum with BS_BASE wraps. -/
theorem bitstreamBitIsTheBufferBit : Obligations.BitstreamBitIsTheBufferBit := by
  intro s p hraced
  have haddr : (s.bsBase + BitVec.ofNat 32 (p >>> 3)).toNat = (s.bsBase.toNat + p / 8) % 2 ^ 32 := by
    rw [BitVec.toNat_add, BitVec.toNat_ofNat, Nat.add_mod_mod, Nat.shiftRight_eq_div_pow]
  rw [bitAt, busRead_of_raced_nil hraced, haddr, unsigned]

/-- Peeked bits agree where the bits at their positions do. -/
theorem peekFrom_congr {s t : State} {pos n : Nat} (h : ∀ i < n, bitAt s (pos + i) = bitAt t (pos + i)) :
    peekFrom s pos n = peekFrom t pos n := by
  induction n with
  | zero => rfl
  | succ n ih => rw [peekFrom, peekFrom, ih fun i hi => h i (Nat.lt_succ_of_lt hi), h n n.lt_succ_self]

/-- Settles O16, bit by bit: a bit is one of a byte of the buffer, or 0. -/
theorem bitReaderSeesOnlyTheBuffer : Obligations.BitReaderSeesOnlyTheBuffer := by
  intro s m pos n hraced hagree
  refine peekFrom_congr fun i _ => ?_
  rw [bitstreamBitIsTheBufferBit { s with mem := m } _ hraced, bitstreamBitIsTheBufferBit s _ hraced]
  refine if_ctx_congr Iff.rfl (fun hinside => ?_) fun _ => rfl
  rw [hagree _ (Nat.div_lt_of_lt_mul hinside)]

/-- The binary digits of n peeked bits are the bits at the n positions, the first as the lowest digit (R101). -/
theorem peekFrom_testBit (s : State) (pos n i : Nat) :
    (peekFrom s pos n).testBit i = (decide (i < n) && bitAt s (pos + i)) := by
  induction n with
  | zero => simp [peekFrom]
  | succ n ih =>
    rw [peekFrom, Nat.add_comm, Nat.mul_comm, Nat.testBit_two_pow_mul_add _ (peekFrom_lt s pos n)]
    obtain hlt | rfl | hgt := Nat.lt_trichotomy i n
    · simp [hlt, ih, Nat.lt_succ_of_lt hlt]
    · rw [if_neg (lt_irrefl i), Nat.testBit_bool_toNat]
      simp
    · have hdigit : i - n ≠ 0 := by omega
      simp [hgt.not_gt, hdigit, Nat.not_lt.mpr hgt, Nat.testBit_bool_toNat]

/-- One peeked bit is the bit at the cursor. -/
theorem peekBits_one (s : State) (pos : BitVec 64) : peekBits s pos 1 = (bitAt s pos.toNat).toNat := by
  simp [peekBits, peekFrom]

/-! ### BR_READ, BR_SKIP, BR_ALIGN, BR_SIGN, BR_REALIGN -/

/-- Settles O17: with n at most 32 the peeked number fits in RES0, so its digits are those of RES0. -/
theorem brReadTakesTheNextBits : Obligations.BrReadTakesTheNextBits := by
  intro n s
  refine ⟨fun hle => ⟨BitVec.ofNat 32 (peekBits s s.bsPos n.toNat), ?_, fun i hi => ?_⟩, fun hgt => ?_⟩
  · exact congrArg Host.Outcome.next (if_pos (decide_eq_true hle))
  · rw [BitVec.getLsbD_ofNat, peekBits, peekFrom_testBit, decide_eq_true hi, Bool.true_and]
  · have hbad : ¬bitCountOk n = true := fun hle => absurd (of_decide_eq_true hle) hgt.not_ge
    exact congrArg Host.Outcome.next (if_neg hbad)

/-- The cursor moves by a number of bits as an integer modulo 2^64 (10_state.md R36). -/
theorem advance_eq_ofNat (pos : BitVec 64) (n : Nat) : advance pos n = BitVec.ofNat 64 (pos.toNat + n) := by
  rw [advance, BitVec.ofNat_add, BitVec.ofNat_toNat, BitVec.setWidth_eq]

/-- Settles O18. -/
theorem brSkipMovesTheCursor : Obligations.BrSkipMovesTheCursor := by
  refine ⟨decodeWord_encode (i := .brSkip) rfl, fun s => ?_⟩
  rw [← advance_eq_ofNat]
  rfl

/-- Rounding down to a multiple of 8 clears the three low bits. -/
theorem ofNat_div_mul_eight (n : Nat) : BitVec.ofNat 64 (n / 8 * 8) = BitVec.ofNat 64 n &&& ~~~7 := by
  refine BitVec.eq_of_getLsbD_eq fun i hi => ?_
  have hmask : (7 : BitVec 64).getLsbD i = decide (i < 3) := by
    rw [show (7 : BitVec 64) = BitVec.ofNat 64 (2 ^ 3 - 1) from rfl, BitVec.getLsbD_ofNat, Nat.testBit_two_pow_sub_one,
      decide_eq_true hi, Bool.true_and]
  have hround : (n / 8 * 8).testBit i = (decide (3 ≤ i) && n.testBit i) := by
    rw [show (8 : Nat) = 2 ^ 3 from rfl, Nat.testBit_mul_two_pow, Nat.testBit_div_two_pow]
    by_cases hlow : 3 ≤ i
    · rw [Nat.sub_add_cancel hlow]
    · simp [hlow]
  rw [BitVec.getLsbD_and, BitVec.getLsbD_not, hmask, BitVec.getLsbD_ofNat, BitVec.getLsbD_ofNat, hround]
  simp [hi, ← decide_not, Bool.and_comm]

/-- The model's division form of the alignment is the rule's mask form (R105). -/
theorem alignUp_eq (pos : BitVec 64) : alignUp pos = (pos + 7) &&& ~~~7 := by
  have hsum : BitVec.ofNat 64 (pos.toNat + 7) = pos + 7 := (advance_eq_ofNat pos 7).symm
  rw [alignUp, ofNat_div_mul_eight, hsum]

/-- Settles O19. -/
theorem brAlignRoundsUpToAByte : Obligations.BrAlignRoundsUpToAByte := by
  refine ⟨decodeWord_encode (i := .brAlign) rfl, fun s => ?_⟩
  rw [← alignUp_eq]
  rfl

theorem signed_eq_zero_iff (w : Word) : signed w = 0 ↔ w = 0 := by
  rw [signed, ← BitVec.toInt_inj]
  rfl

/-- A sign bit applied to a magnitude that is not 0 (R106). -/
theorem signApplied_of_ne_zero {s : State} (h : s.op0 ≠ 0) :
    signApplied s =
      { s with res0 := if bitAt s s.bsPos.toNat then -s.op0 else s.op0, bsPos := s.bsPos + 1 } := by
  have hvalue : wrap32 (if peekBits s s.bsPos 1 = 1 then -signed s.op0 else signed s.op0) =
      if bitAt s s.bsPos.toNat then -s.op0 else s.op0 := by
    rw [peekBits_one, wrap32, signed]
    cases bitAt s s.bsPos.toNat
    · exact BitVec.ofInt_toInt
    · exact BitVec.ofInt_neg.trans (congrArg _ BitVec.ofInt_toInt)
  have hsigned : ¬signed s.op0 = 0 := mt (signed_eq_zero_iff s.op0).mp h
  rw [signApplied, if_neg hsigned, hvalue]
  rfl

/-- Settles O20, by whether the magnitude is 0. -/
theorem brSignAppliesTheNextBit : Obligations.BrSignAppliesTheNextBit := by
  refine ⟨decodeWord_encode (i := .brSign) rfl, fun s => ?_⟩
  rw [exec, execBrSign]
  by_cases hzero : s.op0 = 0
  · rw [if_pos hzero, signApplied, if_pos ((signed_eq_zero_iff s.op0).mpr hzero), endBitCommand_none]
  · rw [if_neg hzero, signApplied_of_ne_zero hzero, endBitCommand_none]

/-- The signed difference of R107 is beyond 24 exactly where one position is more than 24 above the other. -/
theorem budgetMismatch_eq (pos target : Nat) :
    budgetMismatch pos target = decide (pos > target + 24 ∨ pos + 24 < target) := by
  rw [budgetMismatch, ← Bool.decide_or, decide_eq_decide]
  omega

/-- Settles O21. -/
theorem brRealignChecksTheBudget : Obligations.BrRealignChecksTheBudget := by
  refine ⟨decodeWord_encode (i := .brRealign) rfl, fun s => ?_⟩
  rw [← budgetMismatch_eq]
  rfl

/-! ### VLC_DEC -/

/-- No two entries of a well-formed table conflict (R108). -/
theorem not_vlcConflict_of_tableOk {t : List VlcEntry} {a b : VlcEntry} (ht : vlcTableOk t = true) (ha : a ∈ t)
    (hb : b ∈ t) : vlcConflict a b = false := by
  obtain ⟨-, hapart⟩ := Bool.and_eq_true_iff.mp ht
  simpa using List.all_eq_true.mp (List.all_eq_true.mp hapart a ha) b hb

/-- Of two entries that the next bits match, the shorter code begins the longer: they conflict unless they are one. -/
theorem eq_of_peekBits_eq_of_len_le {s : State} {pos : BitVec 64} {a b : VlcEntry} (hconflict : vlcConflict a b = false)
    (hle : a.len ≤ b.len) (ha : peekBits s pos a.len = a.code) (hb : peekBits s pos b.len = b.code) : a = b := by
  have hbegins : b.code % 2 ^ a.len = a.code := by rw [← ha, ← hb, peekBits, peekBits, peekFrom_mod s _ hle]
  simpa [vlcConflict, hle, hbegins] using hconflict

/-- In a well-formed table the next bits match at most one entry (R109). -/
theorem eq_of_peekBits_eq {s : State} {pos : BitVec 64} {t : List VlcEntry} {a b : VlcEntry} (ht : vlcTableOk t = true)
    (hat : a ∈ t) (hbt : b ∈ t) (ha : peekBits s pos a.len = a.code) (hb : peekBits s pos b.len = b.code) : a = b := by
  obtain hle | hle := Nat.le_total a.len b.len
  · exact eq_of_peekBits_eq_of_len_le (not_vlcConflict_of_tableOk ht hat hbt) hle ha hb
  · exact (eq_of_peekBits_eq_of_len_le (not_vlcConflict_of_tableOk ht hbt hat) hle hb ha).symm

theorem vlcMatch_eq_none_iff {s : State} {pos : BitVec 64} {t : List VlcEntry} :
    vlcMatch s pos t = none ↔ ∀ e ∈ t, peekBits s pos e.len ≠ e.code := by
  simp [vlcMatch]

theorem vlcMatch_eq_some_iff {s : State} {pos : BitVec 64} {t : List VlcEntry} {e : VlcEntry}
    (ht : vlcTableOk t = true) : vlcMatch s pos t = some e ↔ e ∈ t ∧ peekBits s pos e.len = e.code := by
  refine ⟨vlcMatch_some, fun ⟨het, he⟩ => ?_⟩
  cases hfound : vlcMatch s pos t with
  | none => exact absurd he (vlcMatch_eq_none_iff.mp hfound e het)
  | some d =>
    obtain ⟨hdt, hd⟩ := vlcMatch_some hfound
    rw [eq_of_peekBits_eq ht hdt het hd he]

theorem vlcSymbol_of_match {s : State} {pos : BitVec 64} {t : List VlcEntry} {e : VlcEntry}
    (h : vlcMatch s pos t = some e) : vlcSymbol s pos (some t) = .ok (e.sym, advance pos e.len) := by
  simp only [vlcSymbol, h]

theorem vlcSymbol_of_no_match {s : State} {pos : BitVec 64} {t : List VlcEntry} (h : vlcMatch s pos t = none) :
    vlcSymbol s pos (some t) = .error ⟨.vlc, pos.setWidth 32⟩ := by
  simp only [vlcSymbol, h]

theorem exec_vlcDec_of_ok {tid : BitVec 4} {s : State} {sym : BitVec 16} {pos : BitVec 64}
    (h : vlcSymbol s s.bsPos (vlcTable s.rom s.profile tid) = .ok (sym, pos)) :
    exec (.vlcDec tid) s = .next (completed (overreadNoted { s with res0 := sym.setWidth 32, bsPos := pos })) := by
  simp only [exec, execVlcDec, h, endBitCommand_none]

theorem exec_vlcDec_of_error {tid : BitVec 4} {s : State} {e : Raise}
    (h : vlcSymbol s s.bsPos (vlcTable s.rom s.profile tid) = .error e) :
    exec (.vlcDec tid) s = .next (errored (errCode e.kind) e.info (overreadNoted s)) := by
  simp only [exec, execVlcDec, h, endBitCommand_some]

/-- Settles O22: the entry found is the one given, as no other matches. -/
theorem vlcDecDecodesTheMatchingEntry : Obligations.VlcDecDecodesTheMatchingEntry := by
  intro tid s t e htable ht het he
  have hfound : vlcMatch s s.bsPos t = some e := (vlcMatch_eq_some_iff ht).mpr ⟨het, he⟩
  exact exec_vlcDec_of_ok (htable ▸ vlcSymbol_of_match hfound)

/-- Settles O23: the two ways to find no entry. -/
theorem vlcDecErrors : Obligations.VlcDecErrors := by
  refine fun tid s => ⟨fun habsent => ?_, fun t htable hnone => ?_⟩
  · exact exec_vlcDec_of_error (e := ⟨.illegal, 0⟩) (habsent ▸ rfl)
  · exact exec_vlcDec_of_error (htable ▸ vlcSymbol_of_no_match (vlcMatch_eq_none_iff.mpr hnone))

end Sys2Proof.Proofs.BitReader
end

section
/-! The values of computed binary32 patterns (00_scope.md R11): every result of a rounding has a pattern, so writing the
value of an operation as a pattern and reading it again loses nothing. -/

namespace Sys2Proof.Proofs.Patterns

open Sys2Proof.Machine Sys2Proof.Proofs.Binary32 Sys2Proof.Proofs.Encoding

/-! ### Every binary32 value has a pattern -/

/-- The value of the pattern with these fields. -/
theorem f32OfBits_fields (neg : Bool) {e f : Nat} (he : e < 255) (hf : f < 2 ^ 23) :
    f32OfBits (BitVec.ofNat 32 ((if neg then 2 ^ 31 else 0) + (e * 2 ^ 23 + f))) =
      .fin neg (if e = 0 then f else (2 ^ 23 + f) <<< (e - 1)) := by
  obtain ⟨w, hw⟩ : ∃ w : Word, w = BitVec.ofNat 32 ((if neg then 2 ^ 31 else 0) + (e * 2 ^ 23 + f)) := ⟨_, rfl⟩
  have hnat : w.toNat = (if neg then 2 ^ 31 else 0) + (e * 2 ^ 23 + f) := by
    rw [hw, BitVec.toNat_ofNat]
    exact Nat.mod_eq_of_lt (by split <;> omega)
  have hsign : w.getLsbD 31 = neg := by
    have hbit : w.getLsbD 31 = decide (w.toNat / 2 ^ 31 % 2 = 1) := Nat.testBit_eq_decide_div_mod_eq
    rw [hbit, hnat]
    cases neg <;> simp <;> omega
  have hfields : (w.extractLsb' 23 8).toNat = e ∧ (w.extractLsb' 0 23).toNat = f := by
    have hsum := toNat_eq_fields w
    have hfrac : (w.extractLsb' 0 23).toNat < 2 ^ 23 := BitVec.isLt _
    rw [hsign, hnat] at hsum
    omega
  obtain ⟨hexp, hfrac⟩ := hfields
  rw [← hw]
  split
  next hzero => rw [f32OfBits_subnormal (hexp.trans hzero), hsign, hfrac]
  next hnormal => rw [f32OfBits_normal (hexp ▸ he.ne) (hexp ▸ hnormal), hsign, hexp, hfrac]

theorem exists_pattern_subnormal (neg : Bool) {f : Nat} (hf : f < 2 ^ 23) : ∃ w, f32OfBits w = .fin neg f :=
  ⟨_, f32OfBits_fields neg (by decide : 0 < 255) hf⟩

theorem exists_pattern_normal (neg : Bool) {a e : Nat} (hnormal : 2 ^ 23 ≤ a) (ha : a < 2 ^ 24)
    (hlim : a * 2 ^ e < f32Limit) : ∃ w, f32OfBits w = .fin neg (a * 2 ^ e) := by
  have hexp : e + 1 < 255 := by
    have hpow : 2 ^ (23 + e) < 2 ^ 277 := by
      rw [Nat.pow_add]
      exact (Nat.mul_le_mul_right _ hnormal).trans_lt hlim
    have := (Nat.pow_lt_pow_iff_right (by decide)).mp hpow
    omega
  refine ⟨_, (f32OfBits_fields neg (f := a - 2 ^ 23) hexp (by omega)).trans ?_⟩
  rw [if_neg (Nat.succ_ne_zero e), Nat.add_sub_cancel' hnormal, Nat.add_sub_cancel, Nat.shiftLeft_eq]

/-- A significand of less than 24 bits is doubled while the unit is not the least. -/
theorem exists_pattern_fin (neg : Bool) {a e : Nat} (ha : a < 2 ^ 24) (hlim : a * 2 ^ e < f32Limit) :
    ∃ w, f32OfBits w = .fin neg (a * 2 ^ e) := by
  induction e generalizing a with
  | zero =>
    obtain hsub | hnormal := Nat.lt_or_ge a (2 ^ 23)
    · simpa using exists_pattern_subnormal neg hsub
    · exact exists_pattern_normal neg hnormal ha hlim
  | succ e ih =>
    obtain hsub | hnormal := Nat.lt_or_ge a (2 ^ 23)
    · have hdouble : a * 2 ^ (e + 1) = 2 * a * 2 ^ e := by ring
      rw [hdouble] at hlim ⊢
      exact ih (by omega) hlim
    · exact exists_pattern_normal neg hnormal ha hlim

theorem exists_pattern_inf (neg : Bool) : ∃ w, f32OfBits w = .inf neg := by
  cases neg
  · exact ⟨0x7F800000, by decide⟩
  · exact ⟨0xFF800000, by decide⟩

theorem exists_pattern_nan : ∃ w, f32OfBits w = .nan := ⟨0x7FC00000, by decide⟩

theorem exists_pattern_nan_or_inf (p : Prop) [Decidable p] (neg : Bool) :
    ∃ w, f32OfBits w = if p then .nan else .inf neg := by
  split
  · exact exists_pattern_nan
  · exact exists_pattern_inf neg

theorem exists_pattern_roundF32 (neg : Bool) (n k : Nat) : ∃ w, f32OfBits w = roundF32 neg n k := by
  obtain ⟨a, e, ha, hround⟩ := roundMag_significand n k
  simp only [roundF32, hround]
  split
  next hlim => exact exists_pattern_fin neg ha hlim
  next => exact exists_pattern_inf neg

theorem exists_pattern_f32Mul (x y : F32) : ∃ w, f32OfBits w = f32Mul x y := by
  cases x with
  | nan => exact exists_pattern_nan
  | inf s =>
    cases y with
    | nan => exact exists_pattern_nan
    | inf t => exact exists_pattern_inf _
    | fin t n =>
      rw [f32Mul]
      exact exists_pattern_nan_or_inf ..
  | fin s m =>
    cases y with
    | nan => exact exists_pattern_nan
    | inf t =>
      rw [f32Mul]
      exact exists_pattern_nan_or_inf ..
    | fin t n => exact exists_pattern_roundF32 (s != t) (m * n) 149

/-! ### Reading a written pattern -/

/-- Either mask sets the whole exponent field; the fraction field is not 0, or the quiet bit makes it so. -/
theorem f32OfBits_nanPattern (free : Word) : f32OfBits (nanPattern free) = .nan := by
  have hexp : ∀ x : BitVec 8, (x ||| 255).toNat = 255 := by decide
  have hquiet : ∀ x : BitVec 23, (x ||| 0x400000).toNat ≠ 0 := fun x => by
    rw [BitVec.toNat_or]
    exact (Nat.zero_lt_succ _).trans_le Nat.right_le_or |>.ne'
  simp only [nanPattern]
  generalize free &&& 0x807FFFFF = w
  split
  next => exact f32OfBits_nan (BitVec.extractLsb'_or ▸ hexp _) (BitVec.extractLsb'_or ▸ hquiet _)
  next hfrac =>
    refine f32OfBits_nan (BitVec.extractLsb'_or ▸ hexp _) fun hzero => hfrac ?_
    have hfield : w.extractLsb' 0 23 = 0 := by
      rw [BitVec.extractLsb'_or] at hzero
      exact (BitVec.or_zero).symm.trans (BitVec.eq_of_toNat_eq hzero)
    have hmask := extractLsb'_shiftLeft w 0 23
    rw [hfield] at hmask
    exact hmask.symm

theorem f32OfBits_f32ToBits (free : Word) {x : F32} (h : ∃ w, f32OfBits w = x) : f32OfBits (f32ToBits free x) = x := by
  obtain ⟨w, rfl⟩ := h
  by_cases hnan : f32OfBits w = .nan
  · rw [hnan]
    exact f32OfBits_nanPattern free
  · rw [patternsAndValuesAgree free w hnan]

/-- A product of patterns has the value of the product (R11), whatever pattern a NaN gets. -/
theorem f32OfBits_mulBits (a b : Word) : f32OfBits (mulBits a b) = f32Mul (f32OfBits a) (f32OfBits b) :=
  f32OfBits_f32ToBits _ (exists_pattern_f32Mul _ _)

theorem f32OfBits_intBits (n : Int) : f32OfBits (intBits n) = f32OfInt n :=
  f32OfBits_f32ToBits _ (exists_pattern_roundF32 ..)

end Sys2Proof.Proofs.Patterns
end

section
/-! The obligations about the quantizer index, the coefficient file and the DC arithmetic (41_coef_dequant.md R142, R143,
R148 to R156). -/

namespace Sys2Proof.Proofs.Coef

open Sys2Proof.Machine Sys2Proof.Stated Sys2Proof.Proofs.Window

/-! ### The quantizer index -/

theorem qlim_eq (p : Profile) : qlim p = if p = .f then 16 else 37 := by cases p <;> rfl

theorem qidxOutOfRange_iff (s : State) :
    qidxOutOfRange s = true ↔ ¬ s.qidx.toNat < (if s.profile = .f then 16 else 37) := by
  rw [qidxOutOfRange, decide_eq_true_eq, not_lt, unsigned, qlim_eq]

/-- Settles O24, by the signed comparison the model makes. -/
theorem qsetChecksTheIndex : Obligations.QsetChecksTheIndex := by
  refine ⟨decodeWord_encode (i := .qset) rfl, fun s => ?_⟩
  have hlim : (qlim s.profile : Int) = if s.profile = .f then 16 else 37 := by rw [qlim_eq]; exact Nat.cast_ite ..
  rw [← hlim]
  by_cases hout : signed s.op0 < 0 ∨ (qlim s.profile : Int) ≤ signed s.op0
  · rw [if_neg (by simp only [signed] at hout; omega)]
    exact congrArg Host.Outcome.next (if_pos hout)
  · rw [if_pos (by simp only [signed] at hout; omega)]
    exact congrArg Host.Outcome.next (if_neg hout)

/-- Settles O26, by whether QIDX is in range. -/
theorem dcDequantScalesOrRefuses : Obligations.DcDequantScalesOrRefuses := by
  intro s
  by_cases hin : s.qidx.toNat < (if s.profile = .f then 16 else 37)
  · rw [if_pos hin]
    exact congrArg Host.Outcome.next (if_neg (mt (qidxOutOfRange_iff s).mp (not_not.mpr hin)))
  · rw [if_neg hin]
    exact congrArg Host.Outcome.next (if_pos ((qidxOutOfRange_iff s).mpr hin))

/-! ### The coefficient file -/

/-- Settles O25: the new file is the constant one. -/
theorem coefClearZeroesTheFile : Obligations.CoefClearZeroesTheFile :=
  ⟨decodeWord_encode (i := .coefClear) rfl, fun _ => ⟨zeroCoef, rfl, Vector.get_replicate 64 0⟩⟩

theorem get_set_eq_ite (f : Vector Word 64) (i j : Fin 64) (w : Word) :
    (f.set i w).get j = if j = i then w else f.get j := by
  simp [Vector.get_eq_getElem, Vector.getElem_set, Fin.ext_iff, eq_comm]

theorem eq_set_of_get {f f' : Vector Word 64} {i : Fin 64} {w : Word}
    (h : ∀ j : Fin 64, f'.get j = if j = i then w else f.get j) : f' = f.set i w :=
  Vector.ext fun j hj => (h ⟨j, hj⟩).trans (get_set_eq_ite f i ⟨j, hj⟩ w).symm

/-- Over the intra DC range the coefficient of well-formed tables is about the DC value's scale (R150). -/
theorem dcCoefValue_coefAboutDc {r : Rom} (hrom : r.ok = true) (p : Profile) {d : Word} (hd : d.toNat ≤ 2047) :
    coefAboutDc p d (dcCoefValue r p d) = true := by
  simpa [dcToCoefOk, inDcDomain, hd] using dcCoefValue_about hrom p d

theorem abs_le_of_coefAboutDc {p : Profile} {d c : Word} (h : coefAboutDc p d c = true) (hg : p = .g) :
    (c.toInt - 8 * (d.toNat : Int)).natAbs ≤ 64 := by
  subst hg
  exact of_decide_eq_true h

theorem finite_of_coefAboutDc {p : Profile} {d c : Word} (h : coefAboutDc p d c = true) (hf : p = .f) :
    ∃ neg m, f32OfBits c = .fin neg m ∧
      (8 * signedMag neg m - (d.toNat : Int) * 2 ^ 149).natAbs ≤ 8 * 2 ^ 149 := by
  subst hf
  rw [coefAboutDc] at h
  split at h
  next neg m hfin => exact ⟨neg, m, hfin, of_decide_eq_true h⟩
  next => cases h
  next => cases h

/-- Settles O27: the entry at position 0 is the map's value, which R150 constrains. -/
theorem dcInsertWritesPositionZero : Obligations.DcInsertWritesPositionZero := by
  intro s
  have hget := fun i => get_set_eq_ite s.coef 0 i (dcCoefValue s.rom s.profile s.op0)
  refine ⟨_, rfl, hget, fun hrom hd => ?_⟩
  have habout := dcCoefValue_coefAboutDc hrom s.profile hd
  rw [← (hget 0).trans (if_pos rfl)] at habout
  exact ⟨abs_le_of_coefAboutDc habout, finite_of_coefAboutDc habout⟩

/-! ### DC predictor arithmetic -/

theorem dcLo_eq (k : CodingClass) : dcLo k = dcLow k := by cases k <;> rfl

theorem dcHi_eq (k : CodingClass) : dcHi k = dcHigh k := by cases k <;> rfl

theorem dcClampTo_eq (k : CodingClass) (v : Int) : dcClampTo k v = min (max v (dcLow k)) (dcHigh k) := by
  rw [dcClampTo, clamp, dcLo_eq, dcHi_eq]

theorem dcLow_le_dcHigh (k : CodingClass) : dcLow k ≤ dcHigh k := by cases k <;> decide

/-- Settles O28: the seed of each class is a constant. -/
theorem dcSeedGivesTheBase : Obligations.DcSeedGivesTheBase :=
  ⟨decodeWord_encode (i := .dcSeed .intra) rfl, decodeWord_encode (i := .dcSeed .inter) rfl, fun _ => ⟨rfl, rfl⟩⟩

theorem exec_dcClamp (k : CodingClass) (s : State) :
    exec (.dcClamp k) s = .next (resultIs (wrap32 (min (max s.op0.toInt (dcLow k)) (dcHigh k))) s) := by
  rw [← dcClampTo_eq]
  rfl

/-- Settles O29, by where the operand lies. -/
theorem dcClampHoldsTheRange : Obligations.DcClampHoldsTheRange := by
  refine ⟨decodeWord_encode (i := .dcClamp .intra) rfl, decodeWord_encode (i := .dcClamp .inter) rfl, fun k s => ?_⟩
  have hrange := dcLow_le_dcHigh k
  rw [exec_dcClamp]
  split
  next hbelow => rw [max_eq_right hbelow.le, min_eq_left hrange, wrap32]
  next hnotBelow =>
    rw [max_eq_left (not_lt.mp hnotBelow)]
    split
    next habove => rw [min_eq_right habove.le, wrap32]
    next hnotAbove => rw [min_eq_left (not_lt.mp hnotAbove), wrap32, BitVec.ofInt_toInt]

/-- Settles O30: the model's gradient and clamp, spelled out. -/
theorem dcMpredIsTheHeldGradient : Obligations.DcMpredIsTheHeldGradient := by
  refine ⟨decodeWord_encode (i := .dcMpred .intra) rfl, decodeWord_encode (i := .dcMpred .inter) rfl, ?_⟩
  rintro k s _ _ _ rfl rfl rfl
  rw [← dcClampTo_eq]
  rfl

/-- Settles O31: the model's average and clamp, spelled out. -/
theorem dcMpred2IsTheTruncatedAverage : Obligations.DcMpred2IsTheTruncatedAverage := by
  refine ⟨decodeWord_encode (i := .dcMpred2 .intra) rfl, decodeWord_encode (i := .dcMpred2 .inter) rfl, ?_⟩
  rintro k s _ _ rfl rfl
  rw [← dcClampTo_eq]
  rfl

/-! ### The median -/

theorem median3_cases (a b c : Int) : median3 a b c = a ∨ median3 a b c = b ∨ median3 a b c = c := by
  simp only [median3]
  omega

/-- Two of three integers are at most their median. -/
theorem two_le_median3 (a b c : Int) :
    (a ≤ median3 a b c ∧ b ≤ median3 a b c) ∨ (a ≤ median3 a b c ∧ c ≤ median3 a b c) ∨
      (b ≤ median3 a b c ∧ c ≤ median3 a b c) := by
  simp only [median3]
  omega

/-- Two of three integers are at least their median. -/
theorem median3_le_two (a b c : Int) :
    (median3 a b c ≤ a ∧ median3 a b c ≤ b) ∨ (median3 a b c ≤ a ∧ median3 a b c ≤ c) ∨
      (median3 a b c ≤ b ∧ median3 a b c ≤ c) := by
  simp only [median3]
  omega

theorem two_le_countP {p : Word → Prop} [DecidablePred p] {a b c : Word} (h : (p a ∧ p b) ∨ (p a ∧ p c) ∨ (p b ∧ p c)) :
    2 ≤ [a, b, c].countP (fun v => decide (p v)) := by
  obtain ⟨ha, hb⟩ | ⟨ha, hc⟩ | ⟨hb, hc⟩ := h
  · simp [List.countP_cons, ha, hb]
  · simp [List.countP_cons, ha, hc]
  · simp [List.countP_cons, hb, hc]

theorem exists_operand_eq_median3 (a b c : Word) :
    ∃ r : Word, median3 a.toInt b.toInt c.toInt = r.toInt ∧ (r = a ∨ r = b ∨ r = c) := by
  obtain h | h | h := median3_cases a.toInt b.toInt c.toInt
  · exact ⟨a, h, .inl rfl⟩
  · exact ⟨b, h, .inr (.inl rfl)⟩
  · exact ⟨c, h, .inr (.inr rfl)⟩

/-- Settles O32: the median is one of the operands, so RES0 has its value. -/
theorem midPredIsTheMedian : Obligations.MidPredIsTheMedian := by
  refine ⟨decodeWord_encode (i := .midPred) rfl, fun s => ?_⟩
  obtain ⟨r, hmedian, hr⟩ := exists_operand_eq_median3 s.op0 s.op1 s.op2
  have hatMost := two_le_median3 s.op0.toInt s.op1.toInt s.op2.toInt
  have hatLeast := median3_le_two s.op0.toInt s.op1.toInt s.op2.toInt
  rw [hmedian] at hatMost hatLeast
  refine ⟨r, ?_, hr, two_le_countP hatMost, two_le_countP hatLeast⟩
  rw [exec, execMidPred, signed, signed, signed, hmedian, wrap32, BitVec.ofInt_toInt]
  rfl

end Sys2Proof.Proofs.Coef
end

section
/-! The obligations about AC_DECODE (41_coef_dequant.md R141 to R147). A round of the model's loop is a constructor of
`AcWalk`, both ways: from what the model computes to the relation in every state, and back where the tables are
well-formed, which makes the code that is read the one entry the model finds. -/

namespace Sys2Proof.Proofs.AcDecode

open Sys2Proof.Machine Sys2Proof.Stated Sys2Proof.Proofs.Window Sys2Proof.Proofs.BitReader Sys2Proof.Proofs.Coef
  Sys2Proof.Proofs.Patterns

/-! ### Well-formed tables -/

theorem profileRom_ok {r : Rom} (h : r.ok = true) (p : Profile) : (romProf r p).ok p = true := by
  obtain ⟨hF, hG⟩ := Bool.and_eq_true_iff.mp h
  cases p
  · exact hF
  · exact hG

/-- What the constraints on the tables say of the codes, the scans and the magnitude classes (R108, R141, R144). -/
theorem profileRom_ok_parts {r : Rom} (h : r.ok = true) (p : Profile) :
    (∀ t ∈ (romProf r p).vlc.toList, (t.map vlcTableOk).getD true = true) ∧
      (∀ c, scanOk (scanTable r p c) = true) ∧ ∀ e ∈ (romProf r p).acLarge, e.ok = true := by
  have hparts := profileRom_ok h p
  simp only [ProfileRom.ok, Bool.and_eq_true, List.all_eq_true] at hparts
  obtain ⟨⟨⟨⟨hvlc, hluma⟩, hchroma⟩, hlarge⟩, -⟩ := hparts
  refine ⟨hvlc, fun c => ?_, hlarge⟩
  cases c
  · exact hluma
  · exact hchroma

theorem vlcTable_ok {r : Rom} (h : r.ok = true) {p : Profile} {tid : BitVec 4} {t : List VlcEntry}
    (ht : vlcTable r p tid = some t) : vlcTableOk t = true := by
  have hmem : some t ∈ (romProf r p).vlc.toList := by
    rw [← ht, Vector.mem_toList_iff]
    exact Vector.getElem_mem _
  exact (profileRom_ok_parts h p).1 (some t) hmem

/-- A well-formed scan is a bijection that starts at 0, so no later scan index has natural position 0 (R141). -/
theorem scanPos_ne_zero {s : State} (h : s.rom.ok = true) (c : PlaneClass) {idx : Nat} (hpos : 0 < idx) (hlt : idx < 64) :
    scanPos s c idx ≠ 0 := by
  have hscan := (profileRom_ok_parts h s.profile).2.1 c
  rw [scanPos]
  generalize scanTable s.rom s.profile c = scan at hscan ⊢
  simp only [scanOk, Bool.and_eq_true, beq_iff_eq, List.all_eq_true, List.any_eq_true] at hscan
  obtain ⟨hzero, honto⟩ := hscan
  have hsurj : Function.Surjective scan.get := by
    intro p
    obtain ⟨q, hq, rfl⟩ := honto p (List.mem_finRange p)
    obtain ⟨i, hi, rfl⟩ := Vector.getElem_of_mem (Vector.mem_toList_iff.mp hq)
    exact ⟨⟨i, hi⟩, rfl⟩
  intro hidx
  have heq : Fin.ofNat 64 idx = 0 := Finite.injective_iff_surjective.mpr hsurj (hidx.trans hzero.symm)
  have hval := congrArg Fin.val heq
  rw [Fin.val_ofNat, Nat.mod_eq_of_lt hlt, Fin.val_zero] at hval
  omega

/-- Class 0 is no large class (R144). -/
theorem acMag_zero {r : Rom} (h : r.ok = true) (p : Profile) : acMag r p 0 = (0, 0) := by
  have hnone : (romProf r p).acLarge.find? (fun e => e.cls == 0) = none := by
    refine List.find?_eq_none.mpr fun e he hcls => ?_
    have hok := (profileRom_ok_parts h p).2.2 e he
    simp [AcClass.ok, eq_of_beq hcls] at hok
  rw [acMag, hnone]
  rfl

/-! ### The parts of a round -/

section
variable {s : State} {tid : BitVec 4} {pos pos' : BitVec 64} {sym : BitVec 16}

theorem codeRead_of_vlcSymbol (h : vlcSymbol s pos (vlcTable s.rom s.profile tid) = .ok (sym, pos')) :
    codeRead s tid pos sym pos' := by
  obtain ⟨-, hill⟩ | ⟨_, -, -, hvlc⟩ | ⟨t, e, ht, hmatch, hok⟩ := vlcSymbol_cases s pos (vlcTable s.rom s.profile tid)
  · simp [hill] at h
  · simp [hvlc] at h
  · obtain ⟨rfl, rfl⟩ : e.sym = sym ∧ advance pos e.len = pos' := by simpa [hok] using h
    obtain ⟨hmem, hbits⟩ := vlcMatch_some hmatch
    exact ⟨t, e, ht, hmem, hbits, rfl, rfl⟩

theorem vlcSymbol_of_codeRead (hrom : s.rom.ok = true) (h : codeRead s tid pos sym pos') :
    vlcSymbol s pos (vlcTable s.rom s.profile tid) = .ok (sym, pos') := by
  obtain ⟨t, e, ht, hmem, hbits, rfl, rfl⟩ := h
  rw [ht]
  exact vlcSymbol_of_match ((vlcMatch_eq_some_iff (vlcTable_ok hrom ht)).mpr ⟨hmem, hbits⟩)

theorem codeFails_iff {e : Raise} :
    codeFails s tid pos e ↔ vlcSymbol s pos (vlcTable s.rom s.profile tid) = .error e := by
  constructor
  · rintro (⟨ht, rfl⟩ | ⟨t, ht, hnone, rfl⟩)
    · rw [ht, vlcSymbol]
    · rw [ht, vlcSymbol_of_no_match (vlcMatch_eq_none_iff.mpr hnone)]
  · intro h
    obtain ⟨ht, hill⟩ | ⟨t, ht, hnone, hvlc⟩ | ⟨t, e, -, -, hok⟩ :=
      vlcSymbol_cases s pos (vlcTable s.rom s.profile tid)
    · exact .inl ⟨ht, Except.error.inj (h.symm.trans hill)⟩
    · exact .inr ⟨t, ht, vlcMatch_eq_none_iff.mp hnone, Except.error.inj (h.symm.trans hvlc)⟩
    · simp [hok] at h

/-- A value that is not 0 takes one bit more than its class, the sign. -/
theorem acValue_eq (s : State) (pos : BitVec 64) {cls : BitVec 16} {base n : Nat}
    (h : acMag s.rom s.profile cls = (base, n)) :
    acValue s pos cls =
      if base + peekBits s pos n = 0 then (0, pos + BitVec.ofNat 64 n)
      else (if bitAt s (pos + BitVec.ofNat 64 n).toNat then -((base + peekBits s pos n : Nat) : Int)
        else ((base + peekBits s pos n : Nat) : Int), pos + BitVec.ofNat 64 (n + 1)) := by
  have hsign : (peekBits s (pos + BitVec.ofNat 64 n) 1 = 1) ↔ bitAt s (pos + BitVec.ofNat 64 n).toNat = true := by
    rw [peekBits_one, Bool.toNat_eq_one]
  simp only [acValue, h, advance, hsign, BitVec.ofNat_add, BitVec.add_assoc]

theorem valueRead_iff {cls : BitVec 16} {v : Int} : valueRead s pos cls v pos' ↔ acValue s pos cls = (v, pos') := by
  obtain ⟨base, n, hmag⟩ : ∃ base n, acMag s.rom s.profile cls = (base, n) := ⟨_, _, rfl⟩
  rw [acValue_eq s pos hmag]
  constructor
  · rintro ⟨base', n', mag, hmag', rfl, hread⟩
    obtain ⟨rfl, rfl⟩ := Prod.mk.inj (hmag.symm.trans hmag')
    obtain ⟨hzero, rfl, rfl⟩ | ⟨hmag, rfl, rfl⟩ := hread
    · rw [if_pos hzero]
    · rw [if_neg hmag]
  · intro h
    refine ⟨base, n, _, hmag, rfl, ?_⟩
    split at h
    next hzero => obtain ⟨rfl, rfl⟩ := Prod.mk.inj h; exact .inl ⟨hzero, rfl, rfl⟩
    next hmag => obtain ⟨rfl, rfl⟩ := Prod.mk.inj h; exact .inr ⟨hmag, rfl, rfl⟩

theorem runRead_iff {run : Nat} : runRead s pos sym run pos' ↔ acSkip s pos sym = (run, pos') := by
  rw [runRead, acSkip]
  split
  next hesc => simp [hesc, advance, eq_comm]
  next hesc => simp [hesc, eq_comm]

end

theorem fits32_iff (v : Int) : fits32 v = true ↔ -(2 ^ 31) ≤ v ∧ v ≤ 2 ^ 31 - 1 := by
  simp [fits32]

/-- The model's choice by the profile, with G_AC_NORM the identity. -/
theorem dequantized_eq (s : State) (c : PlaneClass) (k : CodingClass) (v : Int) (i : Fin 64) :
    dequantized s c k v i = dequant s c k v i := by
  rw [dequantized, dequant]
  cases s.profile with
  | f => rfl
  | g => exact (if_neg (by decide)).trans (if_congr (fits32_iff _).symm rfl rfl)

/-! ### The coded position of a round -/

section
variable {s : State} {c : PlaneClass} {k : CodingClass} {r : AcRun} {cls : BitVec 16} {p pos' : BitVec 64} {v : Int}

theorem acCode_of_error {e : Raise} (hsym : vlcSymbol s r.pos (vlcTable s.rom s.profile 0) = .error e) :
    acCode s c k r = .error (r, e) := by
  simp only [acCode, valTid, hsym]

theorem acCode_of_zero (hsym : vlcSymbol s r.pos (vlcTable s.rom s.profile 0) = .ok (cls, p))
    (hval : acValue s p cls = (0, pos')) : acCode s c k r = .ok ({ r with nv := r.nv + 1, pos := pos' }, 0) := by
  simp only [acCode, valTid, hsym, hval, if_true]

theorem acCode_of_outOfRange (hsym : vlcSymbol s r.pos (vlcTable s.rom s.profile 0) = .ok (cls, p))
    (hval : acValue s p cls = (v, pos')) (hv : v ≠ 0) (hdeq : dequantized s c k v (scanPos s c r.idx) = none) :
    acCode s c k r = .error ({ r with nv := r.nv + 1, pos := pos' }, ⟨.range, 0⟩) := by
  rw [dequantized_eq, scanPos] at hdeq
  simp only [acCode, valTid, hsym, hval, if_neg hv, hdeq]

theorem acCode_of_written {w : Word} (hsym : vlcSymbol s r.pos (vlcTable s.rom s.profile 0) = .ok (cls, p))
    (hval : acValue s p cls = (v, pos')) (hv : v ≠ 0) (hdeq : dequantized s c k v (scanPos s c r.idx) = some w) :
    acCode s c k r =
      .ok ({ r with nv := r.nv + 1, pos := pos', coef := r.coef.set (scanPos s c r.idx) w }, v) := by
  rw [dequantized_eq, scanPos] at hdeq
  simp only [acCode, valTid, hsym, hval, if_neg hv, hdeq, scanPos]

/-- With well-formed tables a coded position is one the model computes. -/
theorem acCode_of_coded {f' : Vector Word 64} (hrom : s.rom.ok = true)
    (h : coded s c k r.idx r.pos r.coef pos' f') :
    ∃ v, acCode s c k r = .ok ({ r with nv := r.nv + 1, pos := pos', coef := f' }, v) := by
  obtain ⟨cls, p, v, hread, hvalue, hwrite⟩ := h
  have hsym := vlcSymbol_of_codeRead hrom hread
  have hval := valueRead_iff.mp hvalue
  obtain ⟨rfl, rfl⟩ | ⟨hv, w, hdeq, hget⟩ := hwrite
  · exact ⟨0, acCode_of_zero hsym hval⟩
  · obtain rfl := eq_set_of_get hget
    exact ⟨v, acCode_of_written hsym hval hv hdeq⟩

end

/-- Everything the coded position of a round can do, in the terms of the rules (R144 to R147). -/
theorem acCode_cases (s : State) (c : PlaneClass) (k : CodingClass) (r : AcRun) :
    (∃ e, codeFails s 0 r.pos e ∧ acCode s c k r = .error (r, e)) ∨
    (∃ cls p pos' v, codeRead s 0 r.pos cls p ∧ valueRead s p cls v pos' ∧ v ≠ 0 ∧
      dequantized s c k v (scanPos s c r.idx) = none ∧
      acCode s c k r = .error ({ r with nv := r.nv + 1, pos := pos' }, ⟨.range, 0⟩)) ∨
    (∃ pos' f' v, coded s c k r.idx r.pos r.coef pos' f' ∧
      acCode s c k r = .ok ({ r with nv := r.nv + 1, pos := pos', coef := f' }, v)) := by
  cases hsym : vlcSymbol s r.pos (vlcTable s.rom s.profile 0) with
  | error e => exact .inl ⟨e, codeFails_iff.mpr hsym, acCode_of_error hsym⟩
  | ok out =>
    obtain ⟨cls, p⟩ := out
    obtain ⟨v, pos', hval⟩ : ∃ v pos', acValue s p cls = (v, pos') := ⟨_, _, rfl⟩
    have hread := codeRead_of_vlcSymbol hsym
    have hvalue := valueRead_iff.mpr hval
    by_cases hv : v = 0
    · subst hv
      exact .inr (.inr ⟨pos', r.coef, 0, ⟨cls, p, 0, hread, hvalue, .inl ⟨rfl, rfl⟩⟩, acCode_of_zero hsym hval⟩)
    · cases hdeq : dequantized s c k v (scanPos s c r.idx) with
      | none => exact .inr (.inl ⟨cls, p, pos', v, hread, hvalue, hv, hdeq, acCode_of_outOfRange hsym hval hv hdeq⟩)
      | some w =>
        have hget := fun j => get_set_eq_ite r.coef (scanPos s c r.idx) j w
        exact .inr (.inr ⟨pos', _, v, ⟨cls, p, v, hread, hvalue, .inr ⟨hv, w, hdeq, hget⟩⟩,
          acCode_of_written hsym hval hv hdeq⟩)

/-! ### A round of the loop -/

section
variable {s : State} {c : PlaneClass} {k : CodingClass} {z : Bool} {fuel : Nat} {r r' : AcRun} {v : Int}

theorem acLoop_past (h : 64 ≤ r.idx) : acLoop s c k z fuel r = (r, none) := by
  cases fuel with
  | zero => rfl
  | succ fuel => rw [acLoop, if_pos h]

theorem acLoop_of_error {e : Raise} (hlt : r.idx < 64) (hcode : acCode s c k r = .error (r', e)) :
    acLoop s c k z (fuel + 1) r = (r', some e) := by
  simp only [acLoop, if_neg hlt.not_ge, hcode]

theorem acLoop_of_last (hlast : r.idx = 63) (hcode : acCode s c k r = .ok (r', v)) (hidx : r'.idx = 63) :
    acLoop s c k z (fuel + 1) r = (r', none) := by
  simp only [acLoop, hcode, hlast, hidx, if_true]
  rfl

theorem acLoop_of_zero (hlt : r.idx < 64) (hcode : acCode s c k r = .ok (r', v)) (hidx : r'.idx ≠ 63)
    (hv : v = 0 ∧ z = false) : acLoop s c k z (fuel + 1) r = acLoop s c k z fuel { r' with idx := r'.idx + 1 } := by
  simp only [acLoop, if_neg hlt.not_ge, hcode, if_neg hidx, if_pos hv]

theorem acLoop_of_noSkip {e : Raise} (hlt : r.idx < 64) (hcode : acCode s c k r = .ok (r', v)) (hidx : r'.idx ≠ 63)
    (hv : ¬(v = 0 ∧ z = false)) (hskip : codeFails s 1 r'.pos e) : acLoop s c k z (fuel + 1) r = (r', some e) := by
  rw [codeFails_iff] at hskip
  simp only [acLoop, if_neg hlt.not_ge, hcode, if_neg hidx, if_neg hv, skipTid, hskip]

theorem acLoop_of_skip {sym : BitVec 16} {p2 p3 : BitVec 64} {run : Nat} (hlt : r.idx < 64)
    (hcode : acCode s c k r = .ok (r', v)) (hidx : r'.idx ≠ 63) (hv : ¬(v = 0 ∧ z = false))
    (hskip : vlcSymbol s r'.pos (vlcTable s.rom s.profile 1) = .ok (sym, p2)) (hrun : runRead s p2 sym run p3) :
    acLoop s c k z (fuel + 1) r =
      acLoop s c k z fuel { r' with idx := r'.idx + 1 + run, ns := r'.ns + 1, pos := p3 } := by
  rw [runRead_iff] at hrun
  simp only [acLoop, if_neg hlt.not_ge, hcode, if_neg hidx, if_neg hv, skipTid, hskip, hrun]

end

/-- A round ends the loop, or goes on from a greater scan index, however many rounds are left; with SKIP_AFTER_ZERO at
its default it is a constructor of the walk. -/
theorem acLoop_round (s : State) (c : PlaneClass) (k : CodingClass) (z : Bool) (r : AcRun) :
    (∃ out : AcRun × Option Raise, (∀ fuel, acLoop s c k z (fuel + 1) r = out) ∧
      (z = true → AcWalk s c k r.idx r.pos r.coef out.1.pos out.1.coef out.2)) ∨
    (∃ r' : AcRun, r.idx < r'.idx ∧ (∀ fuel, acLoop s c k z (fuel + 1) r = acLoop s c k z fuel r') ∧
      (z = true → ∀ pos f e, AcWalk s c k r'.idx r'.pos r'.coef pos f e → AcWalk s c k r.idx r.pos r.coef pos f e)) := by
  obtain hpast | hlt := (Nat.lt_or_ge r.idx 64).symm
  · exact .inl ⟨_, fun _ => acLoop_past hpast, fun _ => .past hpast⟩
  obtain ⟨e, hfails, hcode⟩ | ⟨cls, p, pos', v, hread, hvalue, hv, hdeq, hcode⟩ | ⟨pos', f', v, hcoded, hcode⟩ :=
    acCode_cases s c k r
  · exact .inl ⟨_, fun _ => acLoop_of_error hlt hcode, fun _ => .noClass hlt hfails⟩
  · exact .inl ⟨_, fun _ => acLoop_of_error hlt hcode, fun _ => .outOfRange hlt hread hvalue hv hdeq⟩
  by_cases hlast : r.idx = 63
  · exact .inl ⟨_, fun _ => acLoop_of_last hlast hcode hlast, fun _ => hlast ▸ .last (hlast ▸ hcoded)⟩
  by_cases hzero : v = 0 ∧ z = false
  · exact .inr ⟨_, Nat.lt_succ_self _, fun _ => acLoop_of_zero hlt hcode hlast hzero, by simp [hzero.2]⟩
  have hidx : r.idx < 63 := by omega
  cases hskip : vlcSymbol s pos' (vlcTable s.rom s.profile 1) with
  | error e =>
    exact .inl ⟨_, fun _ => acLoop_of_noSkip hlt hcode hlast hzero (codeFails_iff.mpr hskip),
      fun _ => .noSkip hidx hcoded (codeFails_iff.mpr hskip)⟩
  | ok out =>
    obtain ⟨sym, p2⟩ := out
    obtain ⟨run, p3, hrun⟩ : ∃ run p3, runRead s p2 sym run p3 := ⟨_, _, runRead_iff.mpr rfl⟩
    refine .inr ⟨_, ?_, fun _ => acLoop_of_skip hlt hcode hlast hzero hskip hrun,
      fun _ _ _ _ hwalk => .skip hidx hcoded (codeRead_of_vlcSymbol hskip) hrun hwalk⟩
    exact Nat.lt_of_lt_of_le (Nat.lt_succ_self r.idx) (Nat.le_add_right _ run)

/-! ### The loop -/

/-- Rounds beyond those that bring the scan index to 64 change nothing. -/
theorem acLoop_add_fuel (s : State) (c : PlaneClass) (k : CodingClass) (z : Bool) (n : Nat) {fuel : Nat} {r : AcRun}
    (h : 64 ≤ r.idx + fuel) : acLoop s c k z (fuel + n) r = acLoop s c k z fuel r := by
  induction fuel generalizing r with
  | zero => rw [acLoop_past h, acLoop_past h]
  | succ fuel ih =>
    rw [Nat.add_right_comm]
    obtain ⟨out, hends, -⟩ | ⟨r', hlt, hgoes, -⟩ := acLoop_round s c k z r
    · rw [hends, hends]
    · rw [hgoes, hgoes]
      exact ih (by omega)

/-- What the loop computes is a walk. -/
theorem walk_of_acLoop (s : State) (c : PlaneClass) (k : CodingClass) {fuel : Nat} {r : AcRun}
    (h : 64 ≤ r.idx + fuel) :
    AcWalk s c k r.idx r.pos r.coef (acLoop s c k true fuel r).1.pos (acLoop s c k true fuel r).1.coef
      (acLoop s c k true fuel r).2 := by
  induction fuel generalizing r with
  | zero => exact .past h
  | succ fuel ih =>
    obtain ⟨out, hends, hwalk⟩ | ⟨r', hlt, hgoes, hwalk⟩ := acLoop_round s c k true r
    · rw [hends]
      exact hwalk rfl
    · rw [hgoes]
      exact hwalk rfl _ _ _ (ih (by omega))

theorem walk_of_acStart (s : State) (c : PlaneClass) (k : CodingClass) :
    AcWalk s c k 1 s.bsPos (Vector.replicate 64 0) (acLoop s c k true 64 (acStart s)).1.pos
      (acLoop s c k true 64 (acStart s)).1.coef (acLoop s c k true 64 (acStart s)).2 :=
  walk_of_acLoop s c k (r := acStart s) (by simp [acStart])

/-- Settles O36: the scan index rises in every round, and what the loop computes is a walk. -/
theorem acLoopEndsByItself : Obligations.AcLoopEndsByItself :=
  ⟨fun s c k z n => acLoop_add_fuel s c k z n (r := acStart s) (by simp [acStart]),
    fun s c k => ⟨_, _, _, walk_of_acStart s c k⟩⟩

/-- With well-formed tables a walk is what the loop computes. -/
theorem acLoop_of_walk {s : State} {c : PlaneClass} {k : CodingClass} {idx : Nat} {pos pos' : BitVec 64}
    {f f' : Vector Word 64} {e : Option Raise} (hrom : s.rom.ok = true) (h : AcWalk s c k idx pos f pos' f' e)
    {fuel : Nat} (nv ns : Nat) (hfuel : 64 ≤ idx + fuel) :
    ∃ r, acLoop s c k true (fuel + 1) ⟨idx, nv, ns, pos, f⟩ = (r, e) ∧ r.pos = pos' ∧ r.coef = f' := by
  induction h generalizing fuel nv ns with
  | past hpast => exact ⟨_, acLoop_past hpast, rfl, rfl⟩
  | noClass hlt hfails =>
    exact ⟨_, acLoop_of_error hlt (acCode_of_error (codeFails_iff.mp hfails)), rfl, rfl⟩
  | outOfRange hlt hread hvalue hv hdeq =>
    exact ⟨_, acLoop_of_error hlt (acCode_of_outOfRange (vlcSymbol_of_codeRead hrom hread) (valueRead_iff.mp hvalue)
      hv hdeq), rfl, rfl⟩
  | last hcoded =>
    obtain ⟨v, hcode⟩ := acCode_of_coded (r := ⟨63, nv, ns, _, _⟩) hrom hcoded
    exact ⟨_, acLoop_of_last rfl hcode rfl, rfl, rfl⟩
  | noSkip hlt hcoded hfails =>
    obtain ⟨v, hcode⟩ := acCode_of_coded (r := ⟨_, nv, ns, _, _⟩) hrom hcoded
    exact ⟨_, acLoop_of_noSkip (Nat.lt_succ_of_lt hlt) hcode hlt.ne (by simp) hfails, rfl, rfl⟩
  | skip hlt hcoded hread hrun _ ih =>
    obtain ⟨v, hcode⟩ := acCode_of_coded (r := ⟨_, nv, ns, _, _⟩) hrom hcoded
    obtain ⟨n, rfl⟩ : ∃ n, fuel = n + 1 := Nat.exists_eq_add_one.mpr (by omega)
    rw [acLoop_of_skip (Nat.lt_succ_of_lt hlt) hcode hlt.ne (by simp) (vlcSymbol_of_codeRead hrom hread) hrun]
    exact ih _ _ (by omega)

/-! ### The command -/

section
variable {s : State} {c : PlaneClass} {k : CodingClass}

theorem exec_acDecode_of_loop {r : AcRun} {e : Option Raise}
    (hq : s.qidx.toNat < (if s.profile = .f then 16 else 37)) (hloop : acLoop s c k true 64 (acStart s) = (r, e)) :
    exec (.acDecode c k) s = .next (endBitCommand e { s with bsPos := r.pos, coef := r.coef }) := by
  have hin : ¬ qidxOutOfRange s = true := mt (qidxOutOfRange_iff s).mp (not_not.mpr hq)
  simp only [exec, execAcDecode, acDecodeWith, skipAfterZero, if_neg hin, hloop]

theorem exec_acDecode_of_walk {pos : BitVec 64} {f : Vector Word 64} {e : Option Raise} (hrom : s.rom.ok = true)
    (hq : s.qidx.toNat < (if s.profile = .f then 16 else 37))
    (hwalk : AcWalk s c k 1 s.bsPos (Vector.replicate 64 0) pos f e) :
    exec (.acDecode c k) s = .next (endBitCommand e { s with bsPos := pos, coef := f }) := by
  obtain ⟨r, hloop, rfl, rfl⟩ := acLoop_of_walk (fuel := 63) hrom hwalk 0 0 (by decide)
  exact exec_acDecode_of_loop hq hloop

end

/-- In profile F a coefficient has the value of the two products, left to right (R146). -/
theorem f32OfBits_deqF (v : Int) (q m : Word) :
    f32OfBits (deqF v q m) = f32Mul (f32Mul (f32OfInt v) (f32OfBits q)) (f32OfBits m) := by
  rw [deqF, f32OfBits_mulBits, f32OfBits_mulBits, f32OfBits_intBits]

/-- Settles O33: the loop's end without an error, and the walk as what the loop computes. -/
theorem acDecodeCompletes : Obligations.AcDecodeCompletes :=
  ⟨fun _ _ _ _ hq hloop => exec_acDecode_of_loop hq hloop,
    fun _ _ _ _ _ hrom hq hwalk => exec_acDecode_of_walk hrom hq hwalk, f32OfBits_deqF, fun _ p hrom => acMag_zero hrom p⟩

/-- Settles O34: the early error, then the loop's. -/
theorem acDecodeErrors : Obligations.AcDecodeErrors := by
  refine ⟨fun c k s => ⟨fun hq => ?_, fun r e hq hloop => exec_acDecode_of_loop hq hloop⟩,
    fun c k s pos f e hrom hq hwalk => exec_acDecode_of_walk hrom hq hwalk⟩
  exact congrArg Host.Outcome.next (if_pos ((qidxOutOfRange_iff s).mpr hq))

theorem coded_get_zero {s : State} {c : PlaneClass} {k : CodingClass} {idx : Nat} {pos pos' : BitVec 64}
    {f f' : Vector Word 64} (hrom : s.rom.ok = true) (hpos : 0 < idx) (hlt : idx < 64)
    (h : coded s c k idx pos f pos' f') : f'.get 0 = f.get 0 := by
  obtain ⟨-, -, -, -, -, ⟨-, rfl⟩ | ⟨-, w, -, hget⟩⟩ := h
  · rfl
  · rw [hget, if_neg (scanPos_ne_zero hrom c hpos hlt).symm]

/-- A walk from a scan index above 0 keeps natural position 0. -/
theorem walk_get_zero {s : State} {c : PlaneClass} {k : CodingClass} {idx : Nat} {pos pos' : BitVec 64}
    {f f' : Vector Word 64} {e : Option Raise} (hrom : s.rom.ok = true) (h : AcWalk s c k idx pos f pos' f' e)
    (hpos : 0 < idx) : f'.get 0 = f.get 0 := by
  induction h with
  | past | noClass | outOfRange => rfl
  | last hcoded => exact coded_get_zero hrom hpos (by decide) hcoded
  | noSkip hlt hcoded => exact coded_get_zero hrom hpos (Nat.lt_succ_of_lt hlt) hcoded
  | skip hlt hcoded _ _ _ ih =>
    rw [ih (by omega), coded_get_zero hrom hpos (Nat.lt_succ_of_lt hlt) hcoded]

/-- Settles O35: the loop is a walk from scan index 1, which no entry at natural position 0 follows. -/
theorem acDecodeLeavesDcZero : Obligations.AcDecodeLeavesDcZero := by
  intro c k s t hrom hq hexec
  obtain rfl := Host.Outcome.next.inj (hexec.symm.trans (exec_acDecode_of_loop hq rfl))
  rw [endBitCommand_eq, endCommand_coef]
  exact (walk_get_zero hrom (walk_of_acStart s c k) Nat.one_pos).trans (Vector.get_replicate ..)

end Sys2Proof.Proofs.AcDecode
end

section
/-! The obligations about the inverse transform commands (42_idct.md R180 to R193) and the frame of the pixel commands.
A block with one entry at (0, 0), carried through two passes of a kernel that spreads a first input evenly, is flat.
Both kernels spread one, profile F's where it is a sum, which a further zero leaves alone. -/

namespace Sys2Proof.Proofs.Transform

open Sys2Proof.Machine Sys2Proof.Stated Sys2Proof.Proofs.Binary32 Sys2Proof.Proofs.BusMemory

/-! ### The entries of a block -/

theorem oct_ext {α : Type} {o o' : Oct α} (h : ∀ i, octGet o i = octGet o' i) : o = o' := by
  cases o
  cases o'
  rw [Oct.mk.injEq]
  exact ⟨h 0, h 1, h 2, h 3, h 4, h 5, h 6, h 7⟩

theorem block_ext {α : Type} {b b' : Block α} (h : ∀ y x, blockGet b y x = blockGet b' y x) : b = b' :=
  oct_ext fun y => oct_ext (h y)

theorem octAll_iff {α : Type} (p : α → Bool) (o : Oct α) : octAll p o = true ↔ ∀ i, p (octGet o i) = true := by
  simp [octAll, Fin.forall_fin_succ, and_assoc, octGet]

theorem blockAll_iff {α : Type} (p : α → Bool) (b : Block α) :
    blockAll p b = true ↔ ∀ y x, p (blockGet b y x) = true := by
  simp only [blockAll, octAll_iff, blockGet]

theorem blockAll_eq_false_iff {α : Type} (p : α → Bool) (b : Block α) :
    blockAll p b = false ↔ ∃ y x, p (blockGet b y x) = false := by
  simp only [← Bool.not_eq_true, blockAll_iff, not_forall]

@[simp] theorem blockGet_coefBlock {α : Type} (f : Word → α) (s : State) (u v : Fin 8) :
    blockGet (coefBlock f s) u v = f (coefAt s u v) := blockGet_octOf ..

/-! ### The transform of each profile -/

theorem residualWith_of_g {s : State} (hg : s.profile = .g) (order : PassOrder) (cvt : AddConversion)
    (mode : StoreMode) : residualWith order cvt mode s = gTransform order (coefBlock signed s) := by
  unfold residualWith
  rw [hg]

theorem residual_of_g {s : State} (hg : s.profile = .g) (mode : StoreMode) :
    residual mode s = gTransform .columnsFirst (coefBlock signed s) := by
  rw [Machine.residual, residualWith_of_g hg, hg, idctOrder]

theorem residualWith_of_f_error {s : State} {order : PassOrder} {e : Raise} (hf : s.profile = .f)
    (h : fResidual (fTransform order (coefBlock f32OfBits s)) = .error e) (cvt : AddConversion) (mode : StoreMode) :
    residualWith order cvt mode s = .error e := by
  unfold residualWith
  rw [hf, h]

theorem residualWith_put_of_f {s : State} {order : PassOrder} {e : Block F32} (hf : s.profile = .f)
    (h : fResidual (fTransform order (coefBlock f32OfBits s)) = .ok e) (cvt : AddConversion) :
    residualWith order cvt .put s = .ok (blockMap f32Floor e) := by
  unfold residualWith
  rw [hf, h]

theorem residualWith_add_of_f {s : State} {order : PassOrder} {e : Block F32} (hf : s.profile = .f)
    (h : fResidual (fTransform order (coefBlock f32OfBits s)) = .ok e) (cvt : AddConversion) :
    residualWith order cvt .add s = .ok (blockMap (addConvert cvt) e) := by
  unfold residualWith
  rw [hf, h]

theorem gTransform_of_coef_out {b : Block Int} (h : ∃ u v, fits16 (blockGet b u v) = false) (order : PassOrder) :
    gTransform order b = .error ⟨.range, 1⟩ := by
  rw [gTransform, (blockAll_eq_false_iff ..).mpr h, if_neg Bool.false_ne_true]

theorem gTransform_of_coef_fit {b : Block Int} (h : ∀ u v, fits16 (blockGet b u v) = true) (order : PassOrder) :
    gTransform order b = gFinish order (firstPass order gKernel b) := if_pos ((blockAll_iff ..).mpr h)

theorem gFinish_of_out {w : Block Int} (h : ∃ u v, fits16 (blockGet w u v) = false) (order : PassOrder) :
    gFinish order w = .error ⟨.range, 2⟩ := by
  rw [gFinish, (blockAll_eq_false_iff ..).mpr h, if_neg Bool.false_ne_true]

theorem fResidual_of_not_finite {b : Block F32} (h : ∃ y x, f32Finite (f32Sub (blockGet b y x) fOffset) = false) :
    fResidual b = .error ⟨.range, 3⟩ := by
  have hall : blockAll f32Finite (blockMap (fun v => f32Sub v fOffset) b) = false :=
    (blockAll_eq_false_iff ..).mpr (by simpa only [blockGet_blockMap] using h)
  simp only [fResidual, hall, Bool.false_eq_true, if_false]

theorem fResidual_of_finite {b : Block F32} (h : ∀ y x, f32Finite (f32Sub (blockGet b y x) fOffset) = true) :
    fResidual b = .ok (blockMap (fun v => f32Sub v fOffset) b) :=
  if_pos ((blockAll_iff ..).mpr (by simpa only [blockGet_blockMap] using h))

/-! ### The transform commands -/

theorem exec_idctPut (p : Plane) (repos : Bool) (blk : BitVec 4) (s : State) :
    exec (.idctPut p repos blk) s = .next (idctCommand .put p repos blk s) := rfl

theorem exec_idctAdd (p : Plane) (repos : Bool) (blk : BitVec 4) (s : State) :
    exec (.idctAdd p repos blk) s = .next (idctCommand .add p repos blk s) := rfl

theorem complete_storeBlock (s : State) (d : PlaneDesc) (x y : Nat) (rows : List (List Byte)) :
    complete (storeBlock s d x y rows) = completed { s with mem := memStore s.mem (blockCells d x y rows) } := rfl

/-- Settles O40: in either mode the command stores its pixels and completes. -/
theorem idctCompletes : Obligations.IdctCompletes := by
  intro p repos blk s x y d r hpos hd hx hy
  refine ⟨fun hres => ?_, fun hres => ?_⟩
  · rw [exec_idctPut, idctCommand_of_residual hpos hd hx hy hres, complete_storeBlock]
  · rw [exec_idctAdd, idctCommand_of_residual hpos hd hx hy hres, complete_storeBlock]

section
variable {mode : StoreMode} {p : Plane} {repos : Bool} {blk : BitVec 4} {s : State} {x y : Nat} {d : PlaneDesc}

theorem idctCommand_of_dst_outside (hpos : (x, y) = destPos s repos blk) (hd : d = s.plane s.outBank p)
    (hout : x + 8 > planeWidth d ∨ y + 8 > planeHeight d) :
    idctCommand mode p repos blk s = errored 0x05 0 s := by
  have hinside : blockInside d x y 8 = false := by
    simp only [blockInside, Bool.and_eq_false_iff, decide_eq_false_iff_not]
    omega
  subst hd
  simp only [idctCommand, ← hpos, hinside, Bool.false_eq_true, if_false]
  rfl

theorem idctCommand_of_range_error {info : Word} (hpos : (x, y) = destPos s repos blk) (hd : d = s.plane s.outBank p)
    (hin : ¬(x + 8 > planeWidth d ∨ y + 8 > planeHeight d)) (hres : residual mode s = .error ⟨.range, info⟩) :
    idctCommand mode p repos blk s = errored 0x06 info s := by
  have hinside : blockInside d x y 8 = true := by
    simp only [blockInside, Bool.and_eq_true, decide_eq_true_eq]
    omega
  subst hd
  simp only [idctCommand, ← hpos, hinside, if_true, hres]
  rfl

end

/-- Settles O41: the destination check, then the transform's checks in the order of its passes. -/
theorem idctErrorsInOrder : Obligations.IdctErrorsInOrder := by
  intro p repos blk s x y d i hi hpos hd
  obtain ⟨mode, hexec⟩ : ∃ mode, exec i s = .next (idctCommand mode p repos blk s) := by
    obtain rfl | rfl := hi
    · exact ⟨.put, exec_idctPut ..⟩
    · exact ⟨.add, exec_idctAdd ..⟩
  rw [hexec]
  split
  next hout => rw [idctCommand_of_dst_outside hpos hd hout]
  next hin =>
    have herror {info : Word} (hres : Machine.residual mode s = .error ⟨.range, info⟩) :
        (.next (idctCommand mode p repos blk s) : Host.Outcome State Fault Refusal) = .next (errored 0x06 info s) := by
      rw [idctCommand_of_range_error hpos hd hin hres]
    refine ⟨fun hg hcoef => herror ?_, fun hg hfit hmid => herror ?_, fun hf hnot => herror ?_⟩
    · rw [residual_of_g hg]
      exact gTransform_of_coef_out (by simpa only [blockGet_coefBlock, signed] using hcoef) _
    · rw [residual_of_g hg, gTransform_of_coef_fit (by simpa only [blockGet_coefBlock, signed] using hfit)]
      exact gFinish_of_out hmid _
    · rw [Machine.residual, hf, idctOrder]
      exact residualWith_of_f_error hf (fResidual_of_not_finite hnot) _ _

/-! ### The frame of the pixel commands -/

theorem idctCommand_mem_outside (mode : StoreMode) (p : Plane) {repos : Bool} {blk : BitVec 4} {s : State} {x y : Nat}
    {a : Word} (hpos : (x, y) = destPos s repos blk) (hout : outsideBlock (s.plane s.outBank p) x y 8 a) :
    memGet (idctCommand mode p repos blk s).mem a.toNat = memGet s.mem a.toNat := by
  obtain hdst | ⟨_, -, hraise⟩ | ⟨r, -, hstore⟩ := idctCommand_cases mode p repos blk s
  · rw [hdst, raiseError_mem]
  · rw [hraise, raiseError_mem]
  · rw [hstore, complete_mem, ← hpos]
    obtain ⟨hrows, hlen⟩ := blockRows_shape (pixels mode s (s.plane s.outBank p) x y r)
    exact storeBlock_frame s _ x y 8 _ hlen a (hrows ▸ hout)

theorem mcCommand_mem_outside (n f : Nat) (rs : AxisPos → Int × Int)
    (pred : (Int → Int → Int) → AxisPos → AxisPos → Int → Int → Int) {p : Plane} {s : State} {a : Word}
    (hout : outsideBlock (s.plane s.outBank p) s.op0.toNat s.op1.toNat n a) :
    memGet (mcCommand n f rs pred p s).mem a.toNat = memGet s.mem a.toNat := by
  obtain hnoref | hdst | hwindow | hstore := mcCommand_cases n f rs pred p s
  · rw [hnoref, raiseError_mem]
  · rw [hdst, raiseError_mem]
  · rw [hwindow, complete_mem]
  · rw [hstore, complete_mem]
    obtain ⟨hrows, hlen⟩ := predRows_shape n
      (pred (refSample s (s.plane s.refBank p)) (axisPos s.op0 s.op2 f) (axisPos s.op1 s.op3 f))
    refine storeBlock_frame s _ _ _ n _ hlen a fun i j hi hj => ?_
    exact hout i j hi (hrows ▸ hj)

/-- Settles O49: what each command does to memory is nothing or a block store at its destination. -/
theorem pixelCommandsWriteOnlyTheirBlock : Obligations.PixelCommandsWriteOnlyTheirBlock := by
  intro p s t a
  refine ⟨fun repos blk x y hpos hout hexec => ?_, fun hout hexec => ?_, fun hout hexec => ?_⟩
  · obtain hput | hadd := hexec
    · obtain rfl := Host.Outcome.next.inj hput
      exact idctCommand_mem_outside .put p hpos hout
    · obtain rfl := Host.Outcome.next.inj hadd
      exact idctCommand_mem_outside .add p hpos hout
  · obtain rfl := Host.Outcome.next.inj hexec
    exact mcCommand_mem_outside 16 1 lumaReadSet lumaPred hout
  · obtain rfl := Host.Outcome.next.inj hexec
    exact mcCommand_mem_outside 8 2 chromaReadSet chromaPred hout

/-! ### Two passes over a single entry -/

/-- Eight values of which only the first may differ from `z`. -/
def impulse {α : Type} (z b : α) : Oct α := ⟨b, z, z, z, z, z, z, z⟩

/-- Eight equal values. -/
def flat {α : Type} (b : α) : Oct α := octOf fun _ => b

/-- The block with `b` at (0, 0) and `z` elsewhere. -/
def dcBlock {α : Type} (z b : α) : Block α := impulse (flat z) (impulse z b)

@[simp] theorem octGet_impulse {α : Type} (z b : α) (i : Fin 8) :
    octGet (impulse z b) i = if i = 0 then b else z := by
  fin_cases i <;> rfl

@[simp] theorem octGet_flat {α : Type} (b : α) (i : Fin 8) : octGet (flat b) i = b := octGet_octOf ..

theorem blockGet_flat_flat {α : Type} (b : α) (y x : Fin 8) : blockGet (flat (flat b)) y x = b := blockGet_octOf ..

theorem blockGet_dcBlock {α : Type} (z b : α) (y x : Fin 8) :
    blockGet (dcBlock z b) y x = if y = 0 ∧ x = 0 then b else z := by
  by_cases hy : y = 0 <;> simp [blockGet, dcBlock, hy]

@[simp] theorem octAll_flat {α : Type} (p : α → Bool) (b : α) : octAll p (flat b) = p b := by
  rw [Bool.eq_iff_iff, octAll_iff]
  simp

@[simp] theorem octAll_impulse {α : Type} (p : α → Bool) (z b : α) : octAll p (impulse z b) = (p b && p z) := by
  rw [Bool.eq_iff_iff, octAll_iff]
  simp [Fin.forall_fin_succ]

theorem octMap_flat {α β : Type} (f : α → β) (b : α) : octMap f (flat b) = flat (f b) := rfl

theorem octMap_impulse {α β : Type} (f : α → β) (z b : α) : octMap f (impulse z b) = impulse (f z) (f b) := rfl

theorem blockMap_flat_flat {α β : Type} (f : α → β) (b : α) : blockMap f (flat (flat b)) = flat (flat (f b)) := rfl

/-- Rows of one value each are, read by columns, equal impulses. -/
theorem transpose_impulse_flat {α : Type} (z b : α) : transpose (impulse (flat z) (flat b)) = flat (impulse z b) := rfl

theorem transpose_flat_flat {α : Type} (b : α) : transpose (flat (flat b)) = flat (flat b) := rfl

theorem transpose_dcBlock {α : Type} (z b : α) : transpose (dcBlock z b) = dcBlock z b := rfl

section
variable {α : Type} {kernel : Oct α → Oct α} {z b : α}

theorem rowPass_dcBlock (hz : kernel (flat z) = flat z) (hb : kernel (impulse z b) = flat b) :
    rowPass kernel (dcBlock z b) = impulse (flat z) (flat b) := by
  rw [rowPass, dcBlock, octMap_impulse, hz, hb]

theorem columnPass_dcBlock (hz : kernel (flat z) = flat z) (hb : kernel (impulse z b) = flat b) :
    columnPass kernel (dcBlock z b) = flat (impulse z b) := by
  rw [columnPass, transpose_dcBlock, ← rowPass, rowPass_dcBlock hz hb, transpose_impulse_flat]

/-- The first pass spreads the entry along one axis and leaves `z` elsewhere. -/
theorem blockAll_firstPass_dcBlock {p : α → Bool} (hz : kernel (flat z) = flat z)
    (hb : kernel (impulse z b) = flat b) (hpz : p z = true) (hpb : p b = true) (order : PassOrder) :
    blockAll p (firstPass order kernel (dcBlock z b)) = true := by
  cases order with
  | columnsFirst =>
    rw [firstPass, columnPass_dcBlock hz hb]
    simp [blockAll, hpz, hpb]
  | rowsFirst =>
    rw [firstPass, rowPass_dcBlock hz hb]
    simp [blockAll, hpz, hpb]

/-- The second pass spreads it along the other axis. -/
theorem secondPass_firstPass_dcBlock (hz : kernel (flat z) = flat z) (hb : kernel (impulse z b) = flat b)
    (order : PassOrder) : secondPass order kernel (firstPass order kernel (dcBlock z b)) = flat (flat b) := by
  cases order with
  | columnsFirst =>
    rw [firstPass, columnPass_dcBlock hz hb, secondPass, rowPass, octMap_flat, hb]
  | rowsFirst =>
    rw [firstPass, rowPass_dcBlock hz hb, secondPass, columnPass, transpose_impulse_flat, octMap_flat, hb,
      transpose_flat_flat]

end

/-- A coefficient file that is 0 but for COEF[0], as a block (R180). -/
theorem coefBlock_of_dcOnly {α : Type} (f : Word → α) {s : State}
    (hdc : ∀ i : Fin 64, i ≠ 0 → s.coef.get i = 0) : coefBlock f s = dcBlock (f 0) (f (s.coef.get 0)) := by
  refine block_ext fun u v => ?_
  rw [blockGet_coefBlock, blockGet_dcBlock, coefAt]
  split
  next hzero => rw [hzero.1, hzero.2]; rfl
  next hne =>
    rw [hdc]
    intro heq
    have hindex : 8 * u.val + v.val = 0 := congrArg Fin.val heq
    exact hne ⟨Fin.ext (by simp; omega), Fin.ext (by simp; omega)⟩

/-! ### A DC-only block in profile G -/

theorem gKernel_impulse (b : Int) : gKernel (impulse 0 b) = flat b := by
  simp [gKernel, impulse, flat, octOf, gA, gB, gC, gD, gE, asr]

theorem gTransform_dcBlock {c : Int} (hc : fits16 c = true) (order : PassOrder) :
    gTransform order (dcBlock 0 c) = .ok (flat (flat (c / 64))) := by
  have hfirst : blockAll fits16 (firstPass order gKernel (dcBlock 0 c)) = true :=
    blockAll_firstPass_dcBlock (gKernel_impulse 0) (gKernel_impulse c) rfl hc order
  have hcoef : blockAll fits16 (dcBlock 0 c) = true := by
    have hzero : fits16 0 = true := rfl
    simp [blockAll, dcBlock, hc, hzero]
  rw [gTransform_of_coef_fit ((blockAll_iff ..).mp hcoef), gFinish, if_pos hfirst,
    secondPass_firstPass_dcBlock (gKernel_impulse 0) (gKernel_impulse c), blockMap_flat_flat]
  rfl

theorem clipUint8_toNat (v : Int) : ((clipUint8 v).toNat : Int) = clamp v 0 255 := by
  unfold clipUint8 clamp
  split
  · simp; omega
  · split
    · simp; omega
    · rw [BitVec.toNat_ofInt]; omega

/-- Settles O42: both orders give the flat block of COEF[0] >> 6. -/
theorem dcOnlyBlockIsFlatInProfileG : Obligations.DcOnlyBlockIsFlatInProfileG := by
  intro s mode order cvt hg hdc hfit
  have hflat (order : PassOrder) :
      gTransform order (coefBlock signed s) = .ok (flat (flat ((s.coef.get 0).toInt / 64))) := by
    rw [coefBlock_of_dcOnly signed hdc]
    exact gTransform_dcBlock hfit order
  refine ⟨_, (residual_of_g hg mode).trans (hflat _), (residualWith_of_g hg order cvt mode).trans (hflat _),
    blockGet_flat_flat _, fun d hd hnear y x => ?_⟩
  rw [blockGet_flat_flat, clipUint8_toNat, clamp]
  omega

/-! ### A DC-only block in profile F -/

theorem roundMag_ne_zero {n : Nat} (hn : n ≠ 0) : roundMag n 0 ≠ 0 := by
  intro hzero
  have hnear := roundMag_nearest n 0 1 0 (by decide)
  rw [hzero] at hnear
  omega

theorem roundMag_roundMag (n k : Nat) : roundMag (roundMag n k) 0 = roundMag n k := by
  obtain ⟨a, e, ha, hround⟩ := roundMag_significand n k
  rw [hround]
  simpa using roundMag_exact a e 0 ha

theorem roundMag_zero (k : Nat) : roundMag 0 k = 0 := by simpa using roundMag_exact 0 0 k

theorem roundF32_of_lt {neg : Bool} {n k : Nat} (h : roundMag n k < f32Limit) :
    roundF32 neg n k = .fin neg (roundMag n k) := by
  simp only [roundF32, if_pos h]

theorem roundF32_of_not_lt {neg : Bool} {n k : Nat} (h : ¬roundMag n k < f32Limit) : roundF32 neg n k = .inf neg := by
  simp only [roundF32, if_neg h]

theorem roundF32_zero (neg : Bool) (k : Nat) : roundF32 neg 0 k = .fin neg 0 := by
  have hlim : roundMag 0 k < f32Limit := by
    rw [roundMag_zero]
    unfold f32Limit
    positivity
  rw [roundF32_of_lt hlim, roundMag_zero]

theorem f32Add_zero_of_ne_zero {m : Nat} (hm : m ≠ 0) (neg t : Bool) :
    f32Add (.fin neg m) (.fin t 0) = roundF32 neg m 0 := by
  have hsum : signedMag neg m + signedMag t 0 = signedMag neg m := by cases t <;> simp [signedMag]
  have hne : signedMag neg m ≠ 0 := by cases neg <;> simpa [signedMag] using hm
  have hsign : decide (signedMag neg m < 0) = neg := by
    cases neg
    · simp [signedMag]
    · simpa [signedMag] using Nat.pos_of_ne_zero hm
  have habs : (signedMag neg m).natAbs = m := by cases neg <;> simp [signedMag]
  rw [f32Add, hsum]
  simp only [if_neg hne, hsign, habs]

/-- A rounded value is a binary32 value, so that rounding it once more changes nothing. -/
theorem f32Add_roundF32_zero {n : Nat} (hn : n ≠ 0) (neg t : Bool) :
    f32Add (roundF32 neg n 0) (.fin t 0) = roundF32 neg n 0 := by
  by_cases hlim : roundMag n 0 < f32Limit
  · have hagain : roundMag (roundMag n 0) 0 < f32Limit := (roundMag_roundMag n 0).symm ▸ hlim
    rw [roundF32_of_lt hlim, f32Add_zero_of_ne_zero (roundMag_ne_zero hn), roundF32_of_lt hagain, roundMag_roundMag]
  · rw [roundF32_of_not_lt hlim]
    rfl

/-- A sum with a term that is not negative is no -0, and a further zero of either sign leaves it alone. -/
theorem f32Add_f32Add_zero (c : F32) (n : Nat) (t : Bool) :
    f32Add (f32Add c (.fin false n)) (.fin t 0) = f32Add c (.fin false n) := by
  cases c with
  | nan => rfl
  | inf s => rfl
  | fin s m =>
    by_cases hsum : signedMag s m + signedMag false n = 0
    · have hzero : f32Add (.fin s m) (.fin false n) = .fin false 0 := by
        rw [f32Add, hsum, Bool.and_false]
        rfl
      rw [hzero]
      cases t <;> rfl
    · have hround : f32Add (.fin s m) (.fin false n) =
          roundF32 (decide (signedMag s m + signedMag false n < 0)) (signedMag s m + signedMag false n).natAbs 0 :=
        if_neg hsum
      rw [hround, f32Add_roundF32_zero (Int.natAbs_ne_zero.mpr hsum)]

theorem f32Mul_zero_fin (n : Nat) : f32Mul (.fin false 0) (.fin false n) = .fin false 0 := by
  rw [f32Mul, Nat.zero_mul, roundF32_zero, bne_self_eq_false]

/-- F_1D of a first input that a zero leaves alone. -/
theorem fKernel_impulse {b : F32} (hadd : ∀ t, f32Add b (.fin t 0) = b) :
    fKernel (impulse (.fin false 0) b) = flat b := by
  have hsub : f32Sub b (.fin false 0) = b := hadd true
  have hzadd : f32Add (.fin false 0) (.fin false 0) = .fin false 0 := rfl
  have hzsub : f32Sub (.fin false 0) (.fin false 0) = .fin false 0 := rfl
  have hmul1 : f32Mul (.fin false 0) fK1 = .fin false 0 := f32Mul_zero_fin _
  have hmul2 : f32Mul (.fin false 0) fK2 = .fin false 0 := f32Mul_zero_fin _
  have hmul3 : f32Mul (.fin false 0) fK3 = .fin false 0 := f32Mul_zero_fin _
  have hmul4 : f32Mul (.fin false 0) fK4 = .fin false 0 := f32Mul_zero_fin _
  simp only [fKernel, impulse, hadd, hsub, hzadd, hzsub, hmul1, hmul2, hmul3, hmul4]
  rfl

/-- F_2D of a DC-only block is flat: the biased entry is a sum (R186, R193). -/
theorem fTransform_dcBlock (c : F32) (order : PassOrder) :
    fTransform order (dcBlock (.fin false 0) c) = flat (flat (f32Add c fBias)) :=
  secondPass_firstPass_dcBlock (fKernel_impulse fun t => by cases t <;> rfl)
    (fKernel_impulse (f32Add_f32Add_zero c _)) order

theorem fTransform_of_dcOnly {s : State} (hdc : ∀ i : Fin 64, i ≠ 0 → s.coef.get i = 0) (order : PassOrder) :
    fTransform order (coefBlock f32OfBits s) = flat (flat (f32Add (f32OfBits (s.coef.get 0)) fBias)) := by
  rw [coefBlock_of_dcOnly f32OfBits hdc]
  exact fTransform_dcBlock _ order

/-- Settles O43: the transform is flat, so its residual is an error or flat too, and each mode converts one value. -/
theorem dcOnlyBlockIsFlatInProfileF : Obligations.DcOnlyBlockIsFlatInProfileF := by
  refine ⟨fun s order hdc y x => by rw [fTransform_of_dcOnly hdc, blockGet_flat_flat], ?_⟩
  rintro s order cvt e hf hdc rfl
  have hflat := fTransform_of_dcOnly hdc order
  refine ⟨fun hnot mode => ?_, fun hfinite => ?_⟩
  · refine residualWith_of_f_error hf ?_ cvt mode
    rw [hflat]
    exact fResidual_of_not_finite ⟨0, 0, hnot⟩
  · have hres := fResidual_of_finite (b := flat (flat (f32Add (f32OfBits (s.coef.get 0)) fBias)))
      fun y x => by rwa [blockGet_flat_flat]
    rw [← hflat] at hres
    refine ⟨⟨_, residualWith_put_of_f hf hres cvt, fun d x0 y0 y x => ?_⟩,
      ⟨_, residualWith_add_of_f hf hres cvt, fun y x => ?_⟩⟩
    · rw [hflat, blockGet_pixels_put, blockGet_blockMap, blockGet_blockMap, blockGet_flat_flat]
      rfl
    · rw [hflat, blockGet_blockMap, blockGet_blockMap, blockGet_flat_flat]
      cases cvt <;> rfl

end Sys2Proof.Proofs.Transform
end

section
/-! The obligations about motion compensation (43_motion_comp.md R210 to R219): the four ends of a command, the filters
beside the taps and weights of R212 and R213, the prediction each pair of phases gives, and the samples it reads. -/

namespace Sys2Proof.Proofs.MotionComp

open Sys2Proof.Machine Sys2Proof.Stated Sys2Proof.Proofs.BusMemory Sys2Proof.Proofs.Transform

/-! ### The ends of a command -/

theorem exec_mcL (p : Plane) (s : State) : exec (.mcL p) s = .next (mcCommand 16 1 lumaReadSet lumaPred p s) := rfl

theorem exec_mcC (p : Plane) (s : State) : exec (.mcC p) s = .next (mcCommand 8 2 chromaReadSet chromaPred p s) := rfl

theorem blockInside_iff (d : PlaneDesc) (x y n : Nat) :
    blockInside d x y n = true ↔ x + n ≤ planeWidth d ∧ y + n ≤ planeHeight d := by
  simp [blockInside]

section
variable {n f : Nat} {rs : AxisPos → Int × Int} {pred : (Int → Int → Int) → AxisPos → AxisPos → Int → Int → Int}
  {p : Plane} {s : State}

theorem mcCommand_of_noref (href : s.refValid = false) : mcCommand n f rs pred p s = errored 0x04 0 s := by
  simp only [mcCommand, href, Bool.false_eq_true, if_false]
  rfl

theorem mcCommand_of_dst_outside (href : s.refValid = true)
    (hout : s.op0.toNat + n > planeWidth (s.plane s.outBank p) ∨ s.op1.toNat + n > planeHeight (s.plane s.outBank p)) :
    mcCommand n f rs pred p s = errored 0x05 0 s := by
  have hinside : ¬blockInside (s.plane s.outBank p) (unsigned s.op0) (unsigned s.op1) n = true := by
    rw [blockInside_iff, unsigned, unsigned]
    omega
  simp only [mcCommand, href, hinside, if_true]
  rfl

theorem mcCommand_of_window_outside (href : s.refValid = true)
    (hx : s.op0.toNat + n ≤ planeWidth (s.plane s.outBank p)) (hy : s.op1.toNat + n ≤ planeHeight (s.plane s.outBank p))
    (hwindow : windowInside (s.plane s.refBank p) (rs (axisPos s.op0 s.op2 f)) (rs (axisPos s.op1 s.op3 f)) = false) :
    mcCommand n f rs pred p s = completed s := by
  have hinside := (blockInside_iff _ _ _ n).mpr ⟨hx, hy⟩
  simp only [mcCommand, unsigned, href, hinside, hwindow, Bool.false_eq_true, if_true, if_false]
  rfl

theorem mcCommand_of_window_inside (href : s.refValid = true)
    (hx : s.op0.toNat + n ≤ planeWidth (s.plane s.outBank p)) (hy : s.op1.toNat + n ≤ planeHeight (s.plane s.outBank p))
    (hwindow : windowInside (s.plane s.refBank p) (rs (axisPos s.op0 s.op2 f)) (rs (axisPos s.op1 s.op3 f)) = true) :
    mcCommand n f rs pred p s =
      completed { s with mem := memStore s.mem (blockCells (s.plane s.outBank p) s.op0.toNat s.op1.toNat (predRows n
        (pred (refSample s (s.plane s.refBank p)) (axisPos s.op0 s.op2 f) (axisPos s.op1 s.op3 f)))) } := by
  have hinside := (blockInside_iff _ _ _ n).mpr ⟨hx, hy⟩
  rw [← complete_storeBlock]
  simp only [mcCommand, unsigned, href, hinside, hwindow, if_true]
  rfl

end

/-- What MC_L and MC_C have in common: at phase 0 both read the block itself and copy it. -/
theorem exec_mc {p : Plane} {i : Instr} {n : Nat} (hi : (i = .mcL p ∧ n = 16) ∨ (i = .mcC p ∧ n = 8)) :
    ∃ f rs pred, (∀ s, exec i s = .next (mcCommand n f rs pred p s)) ∧
      (∀ a : AxisPos, a.phase = 0 → rs a = (a.pos, a.pos + (n - 1))) ∧
      ∀ r (h v : AxisPos) (x y : Int), h.phase = 0 → v.phase = 0 → pred r h v x y = r (h.pos + x) (v.pos + y) := by
  obtain ⟨rfl, rfl⟩ | ⟨rfl, rfl⟩ := hi
  · refine ⟨1, _, _, exec_mcL p, fun a ha => ?_, fun r h v x y hh hv => ?_⟩
    · simp [lumaReadSet, ha]
    · rw [lumaPred, if_pos hh, if_pos hv]
  · refine ⟨2, _, _, exec_mcC p, fun a ha => ?_, fun r h v x y hh hv => ?_⟩
    · simp [chromaReadSet, ha]
    · rw [chromaPred, if_pos hh, if_pos hv]

/-- Settles O45: the reference check comes first, then the destination check. -/
theorem mcErrorsInOrder : Obligations.McErrorsInOrder := by
  intro p s i n hi
  obtain ⟨f, rs, pred, hexec, -, -⟩ := exec_mc hi
  rw [hexec]
  exact ⟨fun hnoref => congrArg _ (mcCommand_of_noref hnoref),
    fun href hout => congrArg _ (mcCommand_of_dst_outside href hout)⟩

/-! ### The filters -/

/-- The luma filter of the model is the one R212 gives: the byte it clips to is the clamped value. -/
theorem lumaFilterAt_eq_lumaTaps (a : Int → Int) : lumaFilterAt a = lumaTaps a := by
  rw [lumaFilterAt, lumaFilter, clipUint8_toNat, Machine.clamp, lumaTaps]
  simp only [asr, Int.mul_comm 2, pow_one, show (2 : Int) ^ 4 = 16 from rfl]

theorem lumaTaps_mem_byte (a : Int → Int) : 0 ≤ lumaTaps a ∧ lumaTaps a ≤ 255 := by
  unfold lumaTaps
  omega

/-- The weights sum to 16, so a constant is reproduced (R212). -/
theorem lumaTaps_const {g : Int} (hlo : 0 ≤ g) (hhi : g ≤ 255) : (lumaTaps fun _ => g) = g := by
  simp only [lumaTaps]
  omega

/-- The luma filter reads the six samples at -2 to 3 only. -/
theorem lumaTaps_congr {a b : Int → Int} (h : ∀ k, -2 ≤ k → k ≤ 3 → a k = b k) : lumaTaps a = lumaTaps b := by
  simp only [lumaTaps, h 0 (by decide) (by decide), h 1 (by decide) (by decide), h 2 (by decide) (by decide),
    h 3 (by decide) (by decide), h (-1) (by decide) (by decide), h (-2) (by decide) (by decide)]

/-- The weights of R213: twice the phase for the second sample, the rest of 8 for the first. -/
theorem chromaFilter_eq_chromaTaps {phase : Int} (hlo : 1 ≤ phase) (hhi : phase ≤ 3) (a b : Int) :
    chromaFilter phase a b = chromaTaps phase a b := by
  obtain rfl | rfl | rfl : phase = 1 ∨ phase = 2 ∨ phase = 3 := by omega
  all_goals rfl

/-- Whatever the phase, the weights are those of a mean: not negative, and 8 together. -/
theorem chromaWeights_sum (phase : Int) :
    0 ≤ (chromaWeights phase).1 ∧ 0 ≤ (chromaWeights phase).2 ∧ (chromaWeights phase).1 + (chromaWeights phase).2 = 8 := by
  unfold chromaWeights
  split
  · decide
  · split <;> decide

theorem chromaFilter_mem_byte (phase : Int) {a b : Int} (ha : 0 ≤ a ∧ a ≤ 255) (hb : 0 ≤ b ∧ b ≤ 255) :
    0 ≤ chromaFilter phase a b ∧ chromaFilter phase a b ≤ 255 := by
  obtain ⟨hw0, hw1, hsum⟩ := chromaWeights_sum phase
  have hlo : 0 ≤ (chromaWeights phase).1 * a + (chromaWeights phase).2 * b :=
    add_nonneg (mul_nonneg hw0 ha.1) (mul_nonneg hw1 hb.1)
  have hhi : (chromaWeights phase).1 * a + (chromaWeights phase).2 * b ≤ 8 * 255 := by
    rw [← hsum, add_mul]
    exact add_le_add (mul_le_mul_of_nonneg_left ha.2 hw0) (mul_le_mul_of_nonneg_left hb.2 hw1)
  rw [chromaFilter, asr]
  omega

theorem chromaFilter_const (phase g : Int) : chromaFilter phase g g = g := by
  obtain ⟨-, -, hsum⟩ := chromaWeights_sum phase
  rw [chromaFilter, asr, ← add_mul, hsum]
  omega

/-! ### The prediction of each pair of phases -/

section
variable (r : Int → Int → Int) {h v : AxisPos} (i j : Int)

theorem lumaPred_copy (hh : h.phase = 0) (hv : v.phase = 0) : lumaPred r h v i j = r (h.pos + i) (v.pos + j) := by
  rw [lumaPred, if_pos hh, if_pos hv]

theorem lumaPred_horizontal (hh : h.phase ≠ 0) (hv : v.phase = 0) :
    lumaPred r h v i j = lumaTaps fun a => r (h.pos + i + a) (v.pos + j) := by
  rw [lumaPred, if_neg hh, if_pos hv, lumaFilterAt_eq_lumaTaps]

theorem lumaPred_vertical (hh : h.phase = 0) (hv : v.phase ≠ 0) :
    lumaPred r h v i j = lumaTaps fun b => r (h.pos + i) (v.pos + j + b) := by
  rw [lumaPred, if_pos hh, if_neg hv, lumaFilterAt_eq_lumaTaps]

theorem lumaPred_both (hh : h.phase ≠ 0) (hv : v.phase ≠ 0) :
    lumaPred r h v i j = lumaTaps fun b => lumaTaps fun a => r (h.pos + i + a) (v.pos + j + b) := by
  rw [lumaPred, if_neg hh, if_neg hv]
  simp only [lumaIntermediate, lumaFilterAt_eq_lumaTaps, Int.add_assoc]

theorem chromaPred_copy (hh : h.phase = 0) (hv : v.phase = 0) : chromaPred r h v i j = r (h.pos + i) (v.pos + j) := by
  rw [chromaPred, if_pos hh, if_pos hv]

theorem chromaPred_horizontal (hh : h.phase ≠ 0) (hv : v.phase = 0) :
    chromaPred r h v i j = chromaFilter h.phase (r (h.pos + i) (v.pos + j)) (r (h.pos + i + 1) (v.pos + j)) := by
  rw [chromaPred, if_neg hh, if_pos hv]

theorem chromaPred_vertical (hh : h.phase = 0) (hv : v.phase ≠ 0) :
    chromaPred r h v i j = chromaFilter v.phase (r (h.pos + i) (v.pos + j)) (r (h.pos + i) (v.pos + j + 1)) := by
  rw [chromaPred, if_pos hh, if_neg hv]

theorem chromaPred_both (hh : h.phase ≠ 0) (hv : v.phase ≠ 0) :
    chromaPred r h v i j = chromaFilter v.phase
      (chromaFilter h.phase (r (h.pos + i) (v.pos + j)) (r (h.pos + i + 1) (v.pos + j)))
      (chromaFilter h.phase (r (h.pos + i) (v.pos + j + 1)) (r (h.pos + i + 1) (v.pos + j + 1))) := by
  rw [chromaPred, if_neg hh, if_neg hv]
  simp only [chromaIntermediate, Int.add_assoc]

end

/-! ### The read set -/

theorem lumaReadSet_eq_lumaSpan : lumaReadSet = lumaSpan := rfl

theorem chromaReadSet_eq_chromaSpan : chromaReadSet = chromaSpan := by
  funext a
  rw [chromaReadSet, chromaSpan, ite_not]

theorem windowInside_iff (d : PlaneDesc) (cols rows : Int × Int) :
    windowInside d cols rows = true ↔ spansInside d cols rows := by
  simp [windowInside, rangeInside, spansInside, and_assoc]

/-- A luma prediction depends on the samples of its read set only (R214, R216). -/
theorem lumaPred_congr {r q : Int → Int → Int} {h v : AxisPos} {i j : Int} (hi : 0 ≤ i ∧ i ≤ 15) (hj : 0 ≤ j ∧ j ≤ 15)
    (hh : h.phase = 0 ∨ h.phase = 1) (hv : v.phase = 0 ∨ v.phase = 1) (hagree : agreeOn r q (lumaSpan h) (lumaSpan v)) :
    lumaPred r h v i j = lumaPred q h v i j := by
  obtain hh | hh := hh <;> obtain hv | hv := hv <;>
    simp only [agreeOn, lumaSpan, hh, hv, zero_ne_one, if_true, if_false] at hagree
  · simp only [lumaPred_copy _ i j hh hv]
    apply hagree <;> omega
  · simp only [lumaPred_vertical _ i j hh (v := v) (by omega)]
    refine lumaTaps_congr fun b _ _ => ?_
    apply hagree <;> omega
  · simp only [lumaPred_horizontal _ i j (h := h) (by omega) hv]
    refine lumaTaps_congr fun a _ _ => ?_
    apply hagree <;> omega
  · simp only [lumaPred_both _ i j (h := h) (v := v) (by omega) (by omega)]
    refine lumaTaps_congr fun b _ _ => lumaTaps_congr fun a _ _ => ?_
    apply hagree <;> omega

/-- A chroma prediction depends on the samples of its read set only (R215, R216). -/
theorem chromaPred_congr {r q : Int → Int → Int} {h v : AxisPos} {i j : Int} (hi : 0 ≤ i ∧ i ≤ 7) (hj : 0 ≤ j ∧ j ≤ 7)
    (hagree : agreeOn r q (chromaSpan h) (chromaSpan v)) : chromaPred r h v i j = chromaPred q h v i j := by
  by_cases hh : h.phase = 0 <;> by_cases hv : v.phase = 0 <;>
    simp only [agreeOn, chromaSpan, hh, hv, if_true, if_false] at hagree
  · simp only [chromaPred_copy _ i j hh hv]
    apply hagree <;> omega
  · simp only [chromaPred_vertical _ i j hh hv]
    congr 1 <;> apply hagree <;> omega
  · simp only [chromaPred_horizontal _ i j hh hv]
    congr 1 <;> apply hagree <;> omega
  · simp only [chromaPred_both _ i j hh hv]
    congr 2 <;> apply hagree <;> omega

/-- Settles O46: the end with nothing written, the window test as spans, and the dependence of each prediction. -/
theorem mcOutsideWindowLeavesAllUntouched : Obligations.McOutsideWindowLeavesAllUntouched := by
  refine ⟨fun p s href => ⟨fun hx hy hwindow => ?_, fun hx hy hwindow => ?_⟩, fun d h v => ⟨?_, ?_⟩,
    fun r q h v i j hi hj => ⟨fun hi' hj' hh hv hagree => ?_, fun hi' hj' hagree => ?_⟩⟩
  · rw [exec_mcL, mcCommand_of_window_outside href hx hy hwindow]
  · rw [exec_mcC, mcCommand_of_window_outside href hx hy hwindow]
  · rw [lumaReadSet_eq_lumaSpan, windowInside_iff]
  · rw [chromaReadSet_eq_chromaSpan, windowInside_iff]
  · exact lumaPred_congr ⟨hi, hi'⟩ ⟨hj, hj'⟩ hh hv hagree
  · exact chromaPred_congr ⟨hi, hi'⟩ ⟨hj, hj'⟩ hagree

/-! ### The predicted block -/

/-- Position and phase are the quotient and the remainder of the vector, beside the destination (R210). -/
theorem axisPos_decompose (dest mv : Word) (f : Nat) :
    2 ^ f * (axisPos dest mv f).pos + (axisPos dest mv f).phase = 2 ^ f * (dest.toNat : Int) + mv.toInt ∧
      0 ≤ (axisPos dest mv f).phase ∧ (axisPos dest mv f).phase < 2 ^ f := by
  have hpow : (0 : Int) < 2 ^ f := by positivity
  refine ⟨?_, Int.emod_nonneg _ hpow.ne', Int.emod_lt_of_pos _ hpow⟩
  simp only [axisPos, unsigned, signed, asr, lowBits]
  rw [mul_add, add_assoc, Int.mul_ediv_add_emod]

section
variable {r : Int → Int → Int} (h v : AxisPos) (i j : Int)

/-- Either a sample itself or a value the filter has clipped. -/
theorem lumaPred_mem_byte (hr : ∀ x y, 0 ≤ r x y ∧ r x y ≤ 255) : 0 ≤ lumaPred r h v i j ∧ lumaPred r h v i j ≤ 255 := by
  by_cases hh : h.phase = 0 <;> by_cases hv : v.phase = 0
  · rw [lumaPred_copy r i j hh hv]; exact hr ..
  · rw [lumaPred_vertical r i j hh hv]; exact lumaTaps_mem_byte _
  · rw [lumaPred_horizontal r i j hh hv]; exact lumaTaps_mem_byte _
  · rw [lumaPred_both r i j hh hv]; exact lumaTaps_mem_byte _

theorem chromaPred_mem_byte (hr : ∀ x y, 0 ≤ r x y ∧ r x y ≤ 255) :
    0 ≤ chromaPred r h v i j ∧ chromaPred r h v i j ≤ 255 := by
  have hfilter (x x' y y' : Int) := chromaFilter_mem_byte h.phase (hr x y) (hr x' y')
  by_cases hh : h.phase = 0 <;> by_cases hv : v.phase = 0
  · rw [chromaPred_copy r i j hh hv]; exact hr ..
  · rw [chromaPred_vertical r i j hh hv]; exact chromaFilter_mem_byte _ (hr ..) (hr ..)
  · rw [chromaPred_horizontal r i j hh hv]; exact hfilter ..
  · rw [chromaPred_both r i j hh hv]; exact chromaFilter_mem_byte _ (hfilter ..) (hfilter ..)

theorem lumaPred_const {g : Int} (hlo : 0 ≤ g) (hhi : g ≤ 255) : lumaPred (fun _ _ => g) h v i j = g := by
  have hconst := lumaTaps_const hlo hhi
  by_cases hh : h.phase = 0 <;> by_cases hv : v.phase = 0
  · rw [lumaPred_copy _ i j hh hv]
  · rw [lumaPred_vertical _ i j hh hv, hconst]
  · rw [lumaPred_horizontal _ i j hh hv, hconst]
  · simp only [lumaPred_both _ i j hh hv, hconst]

theorem chromaPred_const (g : Int) : chromaPred (fun _ _ => g) h v i j = g := by
  by_cases hh : h.phase = 0 <;> by_cases hv : v.phase = 0
  · rw [chromaPred_copy _ i j hh hv]
  · rw [chromaPred_vertical _ i j hh hv, chromaFilter_const]
  · rw [chromaPred_horizontal _ i j hh hv, chromaFilter_const]
  · simp only [chromaPred_both _ i j hh hv, chromaFilter_const]

end

/-- The rows of a predicted block, with rows and columns counted by naturals. -/
theorem predRows_eq_map (n : Nat) (pred : Int → Int → Int) :
    predRows n pred =
      (List.range n).map fun j : Nat => (List.range n).map fun i : Nat => BitVec.ofInt 8 (pred i j) := by
  simp [predRows, ← List.map_eq_flatMap]

/-- Each sample of a stored prediction reads back as its byte. -/
theorem memGet_memStore_predRows {m : Memory} {d : PlaneDesc} {x y n : Nat} (pred : Int → Int → Int)
    (hm : Memory.wf m = true) (hdistinct : samplesDistinct d x y n) {i j : Nat} (hi : i < n) (hj : j < n) :
    memGet (memStore m (blockCells d x y (predRows n pred))) (sampleAddr d (x + i) (y + j)).toNat =
      BitVec.ofInt 8 (pred i j) := by
  obtain ⟨hrows, hlen⟩ := predRows_shape n pred
  have hrow : (predRows n pred)[j]? = some ((List.range n).map fun i : Nat => BitVec.ofInt 8 (pred i j)) := by
    simp [predRows_eq_map, hj]
  exact memGet_memStore_blockCells hm hdistinct hrows hlen hrow (by simp [hi])

/-- Settles O47: the stored block, then the vector, the prediction of each pair of phases, its range and the read-back. -/
theorem mcCompletes : Obligations.McCompletes := by
  refine ⟨?stored, ?vector, ?luma, ?chroma, ?range, fun m d x y n pred hm hdistinct i j hi hj =>
    memGet_memStore_predRows pred hm hdistinct hi hj⟩
  case stored =>
    rintro p s x y d href rfl rfl rfl
    refine ⟨fun hx hy hwindow => ?_, fun hx hy hwindow => ?_⟩
    · rw [exec_mcL, mcCommand_of_window_inside href hx hy hwindow]
    · rw [exec_mcC, mcCommand_of_window_inside href hx hy hwindow]
  case vector =>
    intro dest mv
    obtain ⟨hhalf, hhalf0, hhalf1⟩ := axisPos_decompose dest mv 1
    obtain ⟨hquarter, hquarter0, hquarter3⟩ := axisPos_decompose dest mv 2
    exact ⟨⟨hhalf, hhalf0, Int.le_of_lt_add_one hhalf1⟩, hquarter, hquarter0, Int.le_of_lt_add_one hquarter3⟩
  case luma =>
    refine fun r h v i j => ⟨lumaPred_copy r i j, fun hh hv => ?_, fun hh hv => ?_, fun hh hv => ?_⟩
    · exact lumaPred_horizontal r i j (by omega) hv
    · exact lumaPred_vertical r i j hh (by omega)
    · exact lumaPred_both r i j (by omega) (by omega)
  case chroma =>
    intro r h v i j hh0 hh3 hv0 hv3
    have hcols (hh : h.phase ≠ 0) := chromaFilter_eq_chromaTaps (by omega : 1 ≤ h.phase) hh3
    have hrows (hv : v.phase ≠ 0) := chromaFilter_eq_chromaTaps (by omega : 1 ≤ v.phase) hv3
    refine ⟨chromaPred_copy r i j, fun hh hv => ?_, fun hh hv => ?_, fun hh hv => ?_⟩
    · rw [chromaPred_horizontal r i j hh hv, hcols hh]
    · rw [chromaPred_vertical r i j hh hv, hrows hv]
    · rw [chromaPred_both r i j hh hv, hrows hv, hcols hh, hcols hh]
  case range =>
    refine fun r h v i j hr => ⟨lumaPred_mem_byte h v i j hr, chromaPred_mem_byte h v i j hr, fun g hg => ?_⟩
    obtain rfl : r = fun _ _ => g := funext fun x => funext (hg x)
    exact ⟨lumaPred_const h v i j (hr 0 0).1 (hr 0 0).2, chromaPred_const h v i j g⟩

/-! ### A zero vector -/

theorem axisPos_zero (dest : Word) (f : Nat) : axisPos dest 0 f = ⟨dest.toNat, 0⟩ := by
  simp [axisPos, unsigned, signed, asr, lowBits]

/-- Without a racing host write a reference sample is the byte in memory. -/
theorem ofInt_refSample {s : State} (hraced : s.raced = []) (d : PlaneDesc) (x y : Nat) :
    BitVec.ofInt 8 (refSample s d x y) = memGet s.mem (sampleAddr d x y).toNat := by
  rw [refSample, sample, busRead_of_raced_nil hraced, Int.toNat_natCast, Int.toNat_natCast, BitVec.ofInt_natCast,
    BitVec.ofNat_toNat, BitVec.setWidth_eq]

/-- Settles O48: the block is its own read set and its own prediction, so the command stores it byte for byte. -/
theorem zeroVectorCopiesTheReference : Obligations.ZeroVectorCopiesTheReference := by
  rintro p s t i n d e hi rfl rfl hm hraced href hmvx hmvy hdx hdy hrx hry hdistinct hexec
  obtain ⟨f, rs, pred, hmc, hreads, hcopies⟩ := exec_mc hi
  have hcols : axisPos s.op0 s.op2 f = ⟨s.op0.toNat, 0⟩ := by rw [hmvx, axisPos_zero]
  have hrows : axisPos s.op1 s.op3 f = ⟨s.op1.toNat, 0⟩ := by rw [hmvy, axisPos_zero]
  have hwindow : windowInside (s.plane s.refBank p) (rs (axisPos s.op0 s.op2 f)) (rs (axisPos s.op1 s.op3 f)) = true := by
    rw [windowInside_iff, hcols, hrows, hreads _ rfl, hreads _ rfl]
    simp only [spansInside]
    omega
  rw [hmc, mcCommand_of_window_inside href hdx hdy hwindow, hcols, hrows] at hexec
  obtain rfl := Host.Outcome.next.inj hexec
  refine ⟨rfl, rfl, fun k l hk hl => ?_⟩
  calc memGet _ _
    _ = BitVec.ofInt 8 (pred (refSample s (s.plane s.refBank p)) ⟨s.op0.toNat, 0⟩ ⟨s.op1.toNat, 0⟩ k l) :=
        memGet_memStore_predRows _ hm hdistinct hk hl
    _ = BitVec.ofInt 8 (refSample s (s.plane s.refBank p) ↑(s.op0.toNat + k) ↑(s.op1.toNat + l)) := by
        rw [hcopies _ _ _ _ _ rfl rfl, Nat.cast_add, Nat.cast_add]
    _ = _ := ofInt_refSample hraced _ _ _

end Sys2Proof.Proofs.MotionComp
end

section
/-! The obligations about the system commands (44_system.md R240, R241): the opcode field decides which row a word can
match, so a word with OP 0 is NOP or no command at all; and SWAP_REF as what it does to each bit of CONFIG. -/

namespace Sys2Proof.Proofs.System

open Sys2Proof.Machine Sys2Proof.Stated Sys2Proof.Proofs.Window Sys2Proof.Proofs.Encoding

/-! ### NOP -/

/-- Every row's mask covers the opcode field (R88). -/
theorem opField_mask : ∀ r ∈ opcodeRows, opField r.mask = BitVec.allOnes 8 := by decide

/-- A word has the opcode of every row it matches. -/
theorem opField_of_row {w : Word} {r : OpcodeRow} (hr : r ∈ opcodeRows) (hmatch : w &&& r.mask = r.matchBits) :
    opField w = opField r.matchBits := by
  calc opField w
    _ = opField w &&& opField r.mask := by rw [opField_mask r hr, BitVec.and_allOnes]
    _ = opField (w &&& r.mask) := BitVec.extractLsb'_and.symm
    _ = opField r.matchBits := by rw [hmatch]

/-- A word that fits no row is illegal by R89(a) or R89(b), as its opcode is in the map or not. -/
theorem decodeWord_of_noRow {w : Word} (h : ∀ r ∈ opcodeRows, w &&& r.mask ≠ r.matchBits) :
    decodeWord w = .error
      (if assignedOpcode (opField w) then .reservedBits (opField w) else .unassignedOpcode (opField w)) := by
  have hfind : opcodeRows.find? (rowMatches w) = none :=
    List.find?_eq_none.mpr fun r hr hmatch => h r hr (eq_of_beq hmatch)
  simp only [decodeWord, hfind, apply_ite Except.error]

/-- The one row with opcode 0 has no field (R240). -/
theorem row_of_opcode_zero :
    ∀ r ∈ opcodeRows, opField r.matchBits = 0 → r.mask = BitVec.allOnes 32 ∧ r.matchBits = 0 := by decide

theorem decodeWord_eq_nop_iff {w : Word} : decodeWord w = .ok .nop ↔ w = 0 := by
  constructor
  · intro h
    exact (encodeOfDecode w .nop h).2.symm
  · rintro rfl
    exact decodeWord_encode (i := .nop) rfl

/-- OP 0 leaves only the row of NOP, whose mask is the whole word. -/
theorem decodeWord_of_opField_zero {w : Word} (hop : opField w = 0) (hne : w ≠ 0) :
    decodeWord w = .error (.reservedBits 0) := by
  have hnoRow : ∀ r ∈ opcodeRows, w &&& r.mask ≠ r.matchBits := by
    intro r hr hmatch
    obtain ⟨hmask, hbits⟩ := row_of_opcode_zero r hr ((opField_of_row hr hmatch).symm.trans hop)
    rw [hmask, hbits, BitVec.and_allOnes] at hmatch
    exact hne hmatch
  rw [decodeWord_of_noRow hnoRow, hop]
  rfl

theorem exec_nop (s : State) : exec .nop s = .next (completed s) := rfl

/-- Settles O50: the round trip of the word 0, the only row with OP 0, and the bare completion. -/
theorem nopOnlyCompletes : Obligations.NopOnlyCompletes :=
  ⟨fun _ => decodeWord_eq_nop_iff, fun _ => decodeWord_of_opField_zero, exec_nop⟩

/-! ### SWAP_REF -/

/-- Bit 2 is OUTSEL and bit 1 REF_VALID (10_state.md R23). -/
theorem swappedConfig_getLsbD (c : Word) (i : Nat) :
    (swappedConfig c).getLsbD i = if i = 2 then !c.getLsbD 2 else if i = 1 then true else c.getLsbD i := by
  have hbits : swappedConfig c = (c ^^^ BitVec.twoPow 32 2) ||| BitVec.twoPow 32 1 := rfl
  rw [hbits, BitVec.getLsbD_or, BitVec.getLsbD_xor, BitVec.getLsbD_twoPow, BitVec.getLsbD_twoPow]
  split
  next houtsel => subst houtsel; simp
  next houtsel =>
    split
    next hvalid => subst hvalid; simp
    next hvalid => simp [Ne.symm houtsel, Ne.symm hvalid]

theorem exec_swapRef (s : State) :
    exec .swapRef s = .next (completed { s with config := swappedConfig s.config }) := rfl

/-- Settles O51: the new CONFIG, bit by bit. -/
theorem swapRefExchangesTheBanks : Obligations.SwapRefExchangesTheBanks :=
  ⟨decodeWord_encode (i := .swapRef) rfl, fun s => ⟨_, exec_swapRef s, swappedConfig_getLsbD s.config⟩⟩

end Sys2Proof.Proofs.System
end

section
/-! The obligations about how a command and a step end (60_exceptions.md R250 to R257): every command ends by
`endCommand`, so its two ends are the completion and the one place where an error is taken. -/

namespace Sys2Proof.Proofs.Exceptions

open Sys2Proof.Machine Sys2Proof.Proofs.Engine

/-! ### The end of a command -/

/-- The codes of the error table (60_exceptions.md R250). -/
theorem errCode_mem_table (k : ErrKind) : 1 ≤ (errCode k).toNat ∧ (errCode k).toNat ≤ 6 := by
  cases k <;> decide

/-- A command that raises an error has no result (R251). -/
theorem res0_of_raised {i : Instr} {s u : State} {e : Raise} (heff : Effect i s u (some e)) : u.res0 = s.res0 := by
  obtain hsame | ⟨-, hnone⟩ := heff.res0
  · exact hsame
  · exact absurd hnone nofun

/-- Settles O12, by the two ends of a command. -/
theorem everyCommandCompletesOrRaises : Obligations.EveryCommandCompletesOrRaises := by
  intro i s t h
  obtain ⟨r, u, rfl, heff⟩ := effect_of_exec h
  refine ⟨endCommand_busy r u, ?_⟩
  cases r with
  | none =>
    left
    rw [heff.frame]
    simp
  | some e =>
    obtain ⟨hlo, hhi⟩ := errCode_mem_table e.kind
    have hres := res0_of_raised heff
    right
    rw [heff.frame]
    exact ⟨hlo, hhi, rfl, rfl, rfl, hres⟩

/-! ### The end of a step -/

/-- The pending word answers a next state: its command does, and an illegal word raises E_ILLEGAL (30_encoding.md R89). -/
theorem runWord_answers_next (w : Word) (s : State) : ∃ t, runWord w s = .next t := by
  obtain ⟨i, -, hrun⟩ | ⟨_, -, hrun⟩ := runWord_cases w s
  · obtain ⟨r, u, hexec, -⟩ := exec_effect i s
    exact ⟨_, hrun.trans hexec⟩
  · exact ⟨_, hrun⟩

/-- Settles O7, along what a step can do: the host's actions are total, and so is the engine's turn. -/
theorem everyStepAnswersNext : Obligations.EveryStepAnswersNext := by
  intro s
  obtain ⟨-, -, hengine⟩ | ⟨-, _, _, -, -, hhost⟩ | ⟨-, _, _, -, hhost⟩ | ⟨-, -, hnone⟩ := step_cases s
  · rw [hengine]
    exact runWord_answers_next s.cmd s
  · exact ⟨_, hhost⟩
  · exact ⟨_, hhost⟩
  · exact ⟨_, hnone⟩

end Sys2Proof.Proofs.Exceptions
end

section
/-! The obligations about reset (70_reset_and_hazards.md R280 to R282): a soft reset differs from the power-on state in
memory, tables and what is the host's alone, none of which a register reads. -/

namespace Sys2Proof.Proofs.Reset

open Sys2Proof.Machine Sys2Proof.Stated Sys2Proof.Proofs.Window Sys2Proof.Proofs.Invariant Sys2Proof.Proofs.BusMemory

/-! ### Power-on reset -/

@[simp] theorem reset_plane (b : Bool) (p : Plane) : State.reset.plane b p = ⟨0, 0, 0⟩ :=
  Vector.getElem_replicate (planeIndex b p).isLt

@[simp] theorem reset_coef (i : Fin 64) : State.reset.coef.get i = 0 := Vector.getElem_replicate i.isLt

/-- Every register but ID and VERSION reads 0: the descriptors and the coefficient file entry by entry, STATUS and the
halves of BS_POS as parts of 0. -/
theorem regRead_reset {r : Reg} (hid : r ≠ .id) (hversion : r ≠ .version) : regRead State.reset r = 0 := by
  cases r with
  | id => exact absurd rfl hid
  | version => exact absurd rfl hversion
  | plBase b p => exact congrArg PlaneDesc.base (reset_plane b p)
  | plStride b p => exact congrArg PlaneDesc.stride (reset_plane b p)
  | plDim b p => exact congrArg PlaneDesc.dim (reset_plane b p)
  | coef i => exact reset_coef i
  | _ => rfl

/-- Settles O8: the two constants, the registers that read 0, and what follows from STATUS and CONFIG. -/
theorem resetRegisterValues : Obligations.ResetRegisterValues :=
  ⟨rfl, rfl, fun _ => regRead_reset, rfl, rfl, rfl, rfl⟩

theorem softReset_reset : softReset State.reset = State.reset := rfl

/-- Settles O9: the power-on state is a soft reset of itself, with nothing in memory and the unit's own tables. -/
theorem goodAtReset : Obligations.GoodAtReset := by
  have hmem : Memory.wf State.reset.mem = true := rfl
  have hrom : State.reset.rom.ok = true := Config.rom.ok
  rw [Obligations.GoodAtReset, ← softReset_reset]
  exact good_softReset hmem hrom

/-! ### Soft reset -/

theorem regRead_softReset (s : State) (r : Reg) : regRead (softReset s) r = regRead State.reset r := by cases r <;> rfl

@[simp] theorem softReset_irq (s : State) : (softReset s).irq = false := rfl

@[simp] theorem softReset_busy (s : State) : (softReset s).busy = false := rfl

@[simp] theorem softReset_rom (s : State) : (softReset s).rom = s.rom := rfl

@[simp] theorem softReset_mem (s : State) : (softReset s).mem = s.mem := rfl

/-- While a command is pending memory stays, or is as the command's completion leaves it (R282). -/
theorem softResetBusy_cases (s after : State) :
    ∃ m, softResetBusy s after = softReset { s with mem := m, draws := s.draws + 1 } ∧ (m = s.mem ∨ m = after.mem) := by
  refine ⟨_, rfl, ?_⟩
  split
  · exact .inr rfl
  · exact .inl rfl

/-- A write of CTRL with SRESET set is a soft reset, of a state with the same tables and one of the two memories that
R281 and R282 allow. -/
theorem step_of_softReset_write {s : State} {v : Word} {rest : List HostAction} (hwrite : hostWrites s 0x014 v rest)
    (hbit : v.getLsbD 0 = true) :
    ∃ u, step s = .next (softReset u) ∧ u.rom = s.rom ∧
      (u.mem = s.mem ∨ (s.busy = true ∧ u.mem = (afterCommand s).mem)) := by
  have hreg : regAt (0x014 : BitVec 12).toNat = .ctrl := rfl
  obtain hbusy | hidle := Bool.eq_false_or_eq_true s.busy
  · obtain ⟨m, hreset, hm⟩ := softResetBusy_cases { s with host := rest } (afterCommand s)
    rw [step_of_busy_write hbusy hwrite, hreg, regWriteBusy, if_pos hbit, hreset]
    exact ⟨_, rfl, rfl, hm.imp_right fun hafter => ⟨hbusy, hafter⟩⟩
  · rw [step_of_idle_write hidle hwrite, hreg, regWrite, writeCtrl, if_pos hbit]
    exact ⟨_, rfl, rfl, .inl rfl⟩

/-- Settles O59: the write is a soft reset, and the pending command has a completion (R256). -/
theorem softResetGivesTheResetRegisters : Obligations.SoftResetGivesTheResetRegisters := by
  intro s v rest hwrite hbit
  obtain ⟨u, hstep, hrom, hmem⟩ := step_of_softReset_write hwrite hbit
  refine ⟨_, hstep, regRead_softReset u, softReset_irq u, softReset_busy u, (softReset_rom u).trans hrom, ?_⟩
  rw [softReset_mem]
  exact hmem.imp_right fun ⟨hbusy, hafter⟩ => ⟨hbusy, afterCommand s, runWord_afterCommand s, hafter⟩

end Sys2Proof.Proofs.Reset
end
